-- ==== Sys2Proof/Word.lean ====
section
/-! DEFINITION. The 32-bit register word, the NUM terms and the pair (re, im) that a buffer element is.
Types only; the arithmetic stands in Machine/. -/

namespace Sys2Proof

/-- A command word or the value of a U32 register (10_state.md, register types). -/
abbrev Word := BitVec 32

/-- One value of the number domain NUM in the reference reading, an exact real number (00_scope.md R13),
written as a finite term so that a state stays plain data (log 1). `Sys2Proof.NUM.toReal` says
which real number a term stands for. The smart operations of Machine/Numeral.lean build the terms, so
that sums, products and quotients of rationals are rationals again. -/
inductive NUM
  /-- A rational number. -/
  | rat (q : Rat)
  /-- The circle constant. -/
  | pi
  /-- A real number without a closed form, known to the model by its index only (log 1). -/
  | sym (n : Nat)
  | sum (a b : NUM)
  | prod (a b : NUM)
  | quot (a b : NUM)
  /-- The square root (0 for a negative number, which no rule forms). -/
  | root (a : NUM)
  | sine (a : NUM)
  | cosine (a : NUM)
  /-- The principal argument of `x + i·y`: the two-argument arctangent of R8. -/
  | angle (y x : NUM)
deriving DecidableEq, Repr

/-- A complex number over a number domain: one buffer element (10_state.md R41). -/
structure Cx (R : Type) where
  re : R
  im : R
deriving DecidableEq, Repr

end Sys2Proof
end

