-- ==== Sys2Proof/Config.lean ====
section
/-! DEFINITION. What an implementation fixes: the parameters of the block, and the constants of the rules. -/

namespace Sys2Proof

/-- The capacities of one instance of the block: the natural-number parameters of 00_scope.md R4. A value of
this record is an admissible instance, and every admissible instance is a value of it: the types hold the
constraints `50 <= BUF_MAX < 2^31` and `1 <= MAX_SF` of R4, and `MAX_EXCL <= 1920`, `MAX_SF <= 4096` of
20_memory.md R71. -/
structure Config.Capacities where
  /-- BUF_MAX less 50, below 2^31 − 50 = 2147483598. -/
  bufMaxAbove : Fin 2147483598
  /-- MAX_EXCL. -/
  exclEntries : Fin 1921
  /-- MAX_SF less 1. -/
  sfAbove : Fin 4096
deriving DecidableEq, Repr, Inhabited

/-- The instance: a parameter of the model (00_scope.md R4, 10_state.md R43). It has no body, so a theorem of
this model holds for every admissible instance (log 6). -/
opaque Config.capacities : Config.Capacities

/-- BUF_MAX, the capacity of every buffer in elements (R4). -/
def Config.bufMax : Nat := Config.capacities.bufMaxAbove.val + 50

/-- MAX_EXCL, the entries of the pilot exclusion-zone table (R4). -/
def Config.maxExcl : Nat := Config.capacities.exclEntries.val

/-- MAX_SF, the entries of the subframe tables (R4). -/
def Config.maxSf : Nat := Config.capacities.sfAbove.val + 1

/-- The constant of the ID register (10_state.md R24). -/
def Config.idValue : Word := 0x51420001#32

/-- G, the guard band of RUN in hertz, and the reset value of ARG_GUARD (45_pipeline.md R201, 10_state.md R25). -/
def Config.guardBand : Rat := 5000000

/-- The default precision of the Global Phase Aligner in radians (49_host_postprocessing.md R261). -/
def Config.anglePrecision : Rat := 1 / 1000

/-- The real number that the term `NUM.sym n` stands for: nothing is known of it (log 1). -/
noncomputable opaque Config.symbol : Nat → ℝ

end Sys2Proof
end

