-- ==== Sys2Proof/Machine/Enclosure.lean ====
section
/-! DEFINITION. Enclosures of NUM terms: fixed-point intervals with 80 binary places that hold the exact
real value of a term. They let the machine compare two numbers of the reference reading (00_scope.md R13)
by computation. Laws/Enclosure.lean proves that every enclosure holds its number. A term without an
enclosure (a symbol, a division by an interval around 0, a branch cut inside an interval) gives none. -/

namespace Sys2Proof.Machine

/-- The unit of the fixed-point grid is `1 / encScale`. -/
def encScale : Int := 2 ^ 80

/-- The interval from `lo / encScale` to `hi / encScale`, both ends included. -/
structure Encl where
  lo : Int
  hi : Int
deriving DecidableEq, Repr

/-- `a / b` rounded up, for positive `b`. -/
def ceilDiv (a b : Int) : Int := -((-a) / b)

/-- One step of the bitwise square root: `r` holds the bits above `2 ^ k`. -/
def isqrtGo (n : Nat) : Nat → Nat → Nat
  | 0, r => r
  | k + 1, r => isqrtGo n k (if (r + 2 ^ k) ^ 2 ≤ n then r + 2 ^ k else r)

/-- The integer square root. -/
def isqrt (n : Nat) : Nat := isqrtGo n (n.log2 / 2 + 1) 0

def Encl.ofRat (q : Rat) : Encl := ⟨q.num * encScale / q.den, ceilDiv (q.num * encScale) q.den⟩

def Encl.ofInt (n : Int) : Encl := ⟨n * encScale, n * encScale⟩

def Encl.neg (a : Encl) : Encl := ⟨-a.hi, -a.lo⟩

def Encl.add (a b : Encl) : Encl := ⟨a.lo + b.lo, a.hi + b.hi⟩

def Encl.sub (a b : Encl) : Encl := a.add b.neg

def Encl.mul (a b : Encl) : Encl :=
  let least := min (min (a.lo * b.lo) (a.lo * b.hi)) (min (a.hi * b.lo) (a.hi * b.hi))
  let greatest := max (max (a.lo * b.lo) (a.lo * b.hi)) (max (a.hi * b.lo) (a.hi * b.hi))
  ⟨least / encScale, ceilDiv greatest encScale⟩

/-- A product with an integer, without rounding. -/
def Encl.mulInt (n : Int) (a : Encl) : Encl :=
  if 0 ≤ n then ⟨n * a.lo, n * a.hi⟩ else ⟨n * a.hi, n * a.lo⟩

/-- A quotient by a positive natural number. -/
def Encl.divNat (a : Encl) (n : Nat) : Encl := ⟨a.lo / n, ceilDiv a.hi n⟩

/-- The reciprocal of an interval of positive numbers. -/
def Encl.invPos (a : Encl) : Encl := ⟨encScale * encScale / a.hi, ceilDiv (encScale * encScale) a.lo⟩

def Encl.div (a b : Encl) : Option Encl :=
  if 0 < b.lo then some (a.mul b.invPos)
  else if b.hi < 0 then some (a.neg.mul b.neg.invPos)
  else none

/-- The square root, 0 for negative numbers. -/
def Encl.sqrt (a : Encl) : Encl :=
  ⟨isqrt (a.lo.toNat * encScale.toNat), isqrt (a.hi.toNat * encScale.toNat) + 1⟩

/-- The circle constant to twenty decimal places. -/
def Encl.pi : Encl :=
  ⟨314159265358979323846 * encScale / 10 ^ 20, ceilDiv (314159265358979323847 * encScale) (10 ^ 20)⟩

def Encl.halfPi : Encl := Encl.pi.divNat 2

/-- `1 − y2/f1·(1 − y2/f2·(…))`: the Taylor polynomial of cosine or of `sin y / y` in `y2 = y²`. -/
def Encl.horner (y2 : Encl) : List Nat → Encl
  | [] => Encl.ofInt 1
  | f :: fs => (Encl.ofInt 1).sub ((y2.divNat f).mul (y2.horner fs))

/-- The divisors `(2k − 1)·2k` of the cosine's Taylor polynomial. -/
def cosFactors : List Nat := [2, 12, 30, 56, 90, 132, 182, 240, 306, 380, 462, 552]

/-- The divisors `2k·(2k + 1)` of the sine's Taylor polynomial. -/
def sinFactors : List Nat := [6, 20, 42, 72, 110, 156, 210, 272, 342, 420, 506, 600]

def Encl.widen (a : Encl) (n : Int) : Encl := ⟨a.lo - n, a.hi + n⟩

/-- Cosine and sine of numbers between −1 and 1. -/
def Encl.cosSinSmall (y : Encl) : Encl × Encl :=
  let y2 := y.mul y
  ((y2.horner cosFactors).widen 1, (y.mul (y2.horner sinFactors)).widen 1)

/-- The nearest number of quarter turns. -/
def Encl.quarterTurns (a : Encl) : Int :=
  (a.lo + a.hi + Encl.halfPi.lo) / (2 * Encl.halfPi.lo)

/-- Cosine and sine, by a reduction to less than one eighth of a turn. -/
def Encl.cosSin (a : Encl) : Option (Encl × Encl) :=
  let n := a.quarterTurns
  let y := a.sub (Encl.halfPi.mulInt n)
  if -encScale ≤ y.lo ∧ y.hi ≤ encScale then
    let cs := y.cosSinSmall
    match n % 4 with
    | 0 => some (cs.1, cs.2)
    | 1 => some (cs.2.neg, cs.1)
    | 2 => some (cs.1.neg, cs.2.neg)
    | _ => some (cs.2, cs.1.neg)
  else none

/-- A first guess at the arctangent of `num / den` for positive `den`, good to 0.005: only a guess, the
caller checks it. -/
def atanGuess (num den : Int) : Int :=
  if num.natAbs ≤ den.natAbs then
    100 * num * den * encScale / (100 * den * den + 28 * num * num)
  else
    (if 0 ≤ num then Encl.halfPi.lo else -Encl.halfPi.lo)
      - 100 * num * den * encScale / (100 * num * num + 28 * den * den)

/-- One refinement of a guess `t` at the argument of `x + i·y`. -/
def atanRefine (y x t : Int) : Int :=
  match (Encl.mk t t).cosSin with
  | none => t
  | some (c, s) => t + atanGuess (y * c.lo - x * s.lo) (max 1 (x * c.lo + y * s.lo))

/-- The points `a`, no further than a quarter turn from 0, of which `a ≤ arg (x + i·y)` is certain. -/
def atanAbove (y x : Encl) (a : Int) : Bool :=
  decide (a.natAbs ≤ Encl.halfPi.lo) &&
    match (Encl.mk a a).cosSin with
    | none => false
    | some (c, s) => decide (0 ≤ ((y.mul c).sub (x.mul s)).lo)

/-- The points `b` of which `arg (x + i·y) ≤ b` is certain. -/
def atanBelow (y x : Encl) (b : Int) : Bool :=
  decide (b.natAbs ≤ Encl.halfPi.lo) &&
    match (Encl.mk b b).cosSin with
    | none => false
    | some (c, s) => decide (((y.mul c).sub (x.mul s)).hi ≤ 0)

/-- The radii tried around a guess. -/
def atanRadii : List Int := [2 ^ 6, 2 ^ 10, 2 ^ 16, 2 ^ 24, 2 ^ 34, 2 ^ 44, 2 ^ 54, 2 ^ 64, 2 ^ 70, 2 ^ 76]

/-- A lower end of the argument around the guess `t`: the first radius that is certain. -/
def atanLower (y x : Encl) (t : Int) : Int :=
  match atanRadii.find? (fun r => atanAbove y x (t - r)) with
  | some r => t - r
  | none => -Encl.halfPi.hi

/-- An upper end of the argument around the guess `t`. -/
def atanUpper (y x : Encl) (t : Int) : Int :=
  match atanRadii.find? (fun r => atanBelow y x (t + r)) with
  | some r => t + r
  | none => Encl.halfPi.hi

/-- The argument of `x + i·y` for positive `x`. -/
def Encl.argRight (y x : Encl) : Encl :=
  let ym := (y.lo + y.hi) / 2
  let xm := (x.lo + x.hi) / 2
  let t := atanRefine ym xm (atanRefine ym xm (atanGuess ym (max 1 xm)))
  ⟨atanLower y x t, atanUpper y x t⟩

/-- The principal argument of `x + i·y`. -/
def Encl.arg (y x : Encl) : Option Encl :=
  if 0 < x.lo then some (Encl.argRight y x)
  else if 0 < y.lo then some (Encl.halfPi.sub (Encl.argRight x y))
  else if y.hi < 0 then some ((Encl.argRight x y.neg).sub Encl.halfPi)
  else none

/-- The enclosure of a term. -/
def enclose : NUM → Option Encl
  | .rat q => some (Encl.ofRat q)
  | .pi => some Encl.pi
  | .sym _ => none
  | .sum a b =>
    match enclose a, enclose b with
    | some x, some y => some (x.add y)
    | _, _ => none
  | .prod a b =>
    match enclose a, enclose b with
    | some x, some y => some (x.mul y)
    | _, _ => none
  | .quot a b =>
    match enclose a, enclose b with
    | some x, some y => x.div y
    | _, _ => none
  | .root a => (enclose a).map Encl.sqrt
  | .sine a =>
    match enclose a with
    | some x => x.cosSin.map Prod.snd
    | none => none
  | .cosine a =>
    match enclose a with
    | some x => x.cosSin.map Prod.fst
    | none => none
  | .angle y x =>
    match enclose y, enclose x with
    | some v, some u => Encl.arg v u
    | _, _ => none

end Sys2Proof.Machine
end

