-- ==== Sys2Proof/Machine/Numeral.lean ====
section
/-! DEFINITION. The arithmetic of NUM terms in the reference reading (00_scope.md R13): exact real
arithmetic on finite terms. Laws/Numeral.lean proves that each operation is the operation of the reals on
the numbers that the terms stand for. -/

namespace Sys2Proof

open Machine

/-- The real number that a term stands for. -/
noncomputable def NUM.toReal : NUM → ℝ
  | .rat q => (q : ℝ)
  | .pi => Real.pi
  | .sym n => Config.symbol n
  | .sum a b => a.toReal + b.toReal
  | .prod a b => a.toReal * b.toReal
  | .quot a b => a.toReal / b.toReal
  | .root a => Real.sqrt a.toReal
  | .sine a => Real.sin a.toReal
  | .cosine a => Real.cos a.toReal
  | .angle y x => Complex.arg ⟨x.toReal, y.toReal⟩

/-- A term as a rational factor times the rest. -/
def NUM.split : NUM → Rat × NUM
  | .prod (.rat q) t => (q, t)
  | t => (1, t)

/-- A rational multiple of a term. -/
def NUM.scale (q : Rat) : NUM → NUM
  | .rat r => .rat (q * r)
  | t =>
    if q = 0 then .rat 0
    else if q * t.split.1 = 1 then t.split.2
    else .prod (.rat (q * t.split.1)) t.split.2

/-- The two terms are `cos t·cos t` and `sin t·sin t` for one `t`. -/
def NUM.isUnitPair : NUM → NUM → Bool
  | .prod (.cosine a) (.cosine b), .prod (.sine c) (.sine d) => a = b && b = c && c = d
  | _, _ => false

/-- Addition (R13). Rationals and multiples of one term are collected, and `cos² + sin²` is 1. -/
def NUM.add : NUM → NUM → NUM
  | .rat p, .rat q => .rat (p + q)
  | a, b =>
    if a = .rat 0 then b
    else if b = .rat 0 then a
    else if a.split.2 = b.split.2 then .scale (a.split.1 + b.split.1) a.split.2
    else if a.split.1 = b.split.1 ∧ NUM.isUnitPair a.split.2 b.split.2 = true then .rat a.split.1
    else .sum a b

/-- Subtraction (R13). -/
def NUM.sub (a b : NUM) : NUM := a.add (b.scale (-1))

/-- Multiplication (R13). -/
def NUM.mul : NUM → NUM → NUM
  | .rat p, b => b.scale p
  | a, .rat q => a.scale q
  | a, b => .scale (a.split.1 * b.split.1) (.prod a.split.2 b.split.2)

/-- Division (R13). No rule divides by 0; the reals of Lean answer 0 there, and so does this. -/
def NUM.div : NUM → NUM → NUM
  | a, .rat q => a.scale q⁻¹
  | .rat p, b => if p = 0 then .rat 0 else .scale (p / b.split.1) (.quot (.rat 1) b.split.2)
  | a, b =>
    if a.split.2 = .pi ∧ b.split.2 = .pi then .rat (a.split.1 / b.split.1)
    else .scale (a.split.1 / b.split.1) (.quot a.split.2 b.split.2)

/-- The square root (R13): of a rational square it is a rational. -/
def NUM.sqrt : NUM → NUM
  | .rat q =>
    if q ≤ 0 then .rat 0
    else
      let r := isqrt q.num.toNat
      let s := isqrt q.den
      if r * r = q.num.toNat ∧ s * s = q.den then .rat ((r : Rat) / (s : Rat)) else .root (.rat q)
  | a => .root a

/-- The rational `q` with `a = q·π`, where the term shows one. -/
def NUM.piMultiple : NUM → Option Rat
  | .rat q => if q = 0 then some 0 else none
  | .pi => some 1
  | .prod (.rat q) .pi => some q
  | _ => none

/-- `q` less the even integer that brings it into [0, 2). -/
def halfTurns (q : Rat) : Rat := q - 2 * ((q / 2).floor : Rat)

/-- The cosine (R13): exact at quarter turns. -/
def NUM.cos (a : NUM) : NUM :=
  match a.piMultiple with
  | some q =>
    if halfTurns q = 0 then .rat 1
    else if halfTurns q = 1 / 2 then .rat 0
    else if halfTurns q = 1 then .rat (-1)
    else if halfTurns q = 3 / 2 then .rat 0
    else .cosine (NUM.pi.scale (halfTurns q))
  | none => .cosine a

/-- The sine (R13): exact at quarter turns. -/
def NUM.sin (a : NUM) : NUM :=
  match a.piMultiple with
  | some q =>
    if halfTurns q = 0 then .rat 0
    else if halfTurns q = 1 / 2 then .rat 1
    else if halfTurns q = 1 then .rat 0
    else if halfTurns q = 3 / 2 then .rat (-1)
    else .sine (NUM.pi.scale (halfTurns q))
  | none => .sine a

/-- The argument of `cos (q·π) + i·sin (q·π)` as a multiple of π, in (−1, 1]. -/
def principalHalfTurns (q : Rat) : Rat := if 1 < halfTurns q then halfTurns q - 2 else halfTurns q

/-- The two-argument arctangent, 0 at the origin (00_scope.md R8): exact on the axes and on the points
`cis (q·π)`. -/
def NUM.atan2 : NUM → NUM → NUM
  | .rat y, .rat x =>
    if y = 0 then (if 0 ≤ x then .rat 0 else .pi)
    else if x = 0 then (if 0 < y then NUM.pi.scale (1 / 2) else NUM.pi.scale (-1 / 2))
    else .angle (.rat y) (.rat x)
  | .sine a, .cosine b =>
    match a.piMultiple with
    | some q => if a = b then NUM.pi.scale (principalHalfTurns q) else .angle (.sine a) (.cosine b)
    | none => .angle (.sine a) (.cosine b)
  | y, x => .angle y x

/-- The sign of a term, where the term shows it or its enclosure lies on one side of 0. -/
def NUM.sign : NUM → Option Int
  | .rat q => some q.num.sign
  | .prod (.rat q) .pi => some q.num.sign
  | a =>
    match enclose a with
    | none => none
    | some e => if 0 < e.lo then some 1 else if e.hi < 0 then some (-1) else none

/-- `a < b` on the exact values (R13). Where the sign of the difference shows, it is read from there, so that
the comparison can be evaluated; elsewhere it is the order of the reals itself (log 2). -/
noncomputable def NUM.lt (a b : NUM) : Bool :=
  if a = b then false
  else
    match (a.sub b).sign with
    | some g => decide (g < 0)
    | none => decide (a.toReal < b.toReal)

/-- The integer part of the exact value (R13), read from the enclosure where that shows it (log 2). -/
noncomputable def NUM.floor : NUM → Int
  | .rat q => q.floor
  | a =>
    match enclose a with
    | none => ⌊a.toReal⌋
    | some e => if e.lo / encScale = e.hi / encScale then e.lo / encScale else ⌊a.toReal⌋

end Sys2Proof
end

