-- ==== Sys2Proof/Machine/Arith.lean ====
section
/-! DEFINITION. The arithmetic of a number domain as a record, as 00_scope.md R13 asks for it, its instance
for the machine, and the complex operations over it. Every numeric rule of the model is written once over
this record; Machine/Reference.lean gives the instance of the real numbers. -/

namespace Sys2Proof.Machine

/-- The arithmetic of a number domain (00_scope.md R13). `rat` names the constants of the rules. -/
structure Arith (R : Type) where
  rat : Rat → R
  pi : R
  add : R → R → R
  sub : R → R → R
  mul : R → R → R
  div : R → R → R
  sqrt : R → R
  sin : R → R
  cos : R → R
  atan2 : R → R → R
  lt : R → R → Bool
  floor : R → Int

/-- The arithmetic of the machine: NUM in the reference reading (log 1). -/
noncomputable def numArith : Arith NUM where
  rat := NUM.rat
  pi := .pi
  add := NUM.add
  sub := NUM.sub
  mul := NUM.mul
  div := NUM.div
  sqrt := NUM.sqrt
  sin := NUM.sin
  cos := NUM.cos
  atan2 := NUM.atan2
  lt := NUM.lt
  floor := NUM.floor

variable {R : Type}

def Arith.int (A : Arith R) (n : Int) : R := A.rat n
def Arith.nat (A : Arith R) (n : Nat) : R := A.rat n
def Arith.zero (A : Arith R) : R := A.rat 0
def Arith.one (A : Arith R) : R := A.rat 1
def Arith.neg (A : Arith R) (x : R) : R := A.sub A.zero x

/-- `a <= b`. -/
def Arith.le (A : Arith R) (a b : R) : Bool := !A.lt b a

/-- `a > 0`. -/
def Arith.isPos (A : Arith R) (a : R) : Bool := A.lt A.zero a

/-- `a = b`, by two comparisons. -/
def Arith.eq (A : Arith R) (a b : R) : Bool := !A.lt a b && !A.lt b a

def Arith.abs (A : Arith R) (x : R) : R := if A.lt x A.zero then A.neg x else x
def Arith.lesser (A : Arith R) (a b : R) : R := if A.lt b a then b else a
def Arith.greater (A : Arith R) (a b : R) : R := if A.lt a b then b else a

/-- The usual rounding up. -/
def Arith.ceil (A : Arith R) (x : R) : Int := -A.floor (A.neg x)

/-- `f 0 + f 1 + … + f (n − 1)`. -/
def Arith.sumTo (A : Arith R) (f : Nat → R) : Nat → R
  | 0 => A.zero
  | n + 1 => A.add (A.sumTo f n) (f n)

def Arith.czero (A : Arith R) : Cx R := ⟨A.zero, A.zero⟩

/-- A real number as a complex one (10_state.md R41). -/
def Arith.ofReal (A : Arith R) (x : R) : Cx R := ⟨x, A.zero⟩

def Arith.cadd (A : Arith R) (x y : Cx R) : Cx R := ⟨A.add x.re y.re, A.add x.im y.im⟩
def Arith.csub (A : Arith R) (x y : Cx R) : Cx R := ⟨A.sub x.re y.re, A.sub x.im y.im⟩
def Arith.cmul (A : Arith R) (x y : Cx R) : Cx R :=
  ⟨A.sub (A.mul x.re y.re) (A.mul x.im y.im), A.add (A.mul x.re y.im) (A.mul x.im y.re)⟩
def Arith.conj (A : Arith R) (x : Cx R) : Cx R := ⟨x.re, A.neg x.im⟩
def Arith.cscale (A : Arith R) (a : R) (x : Cx R) : Cx R := ⟨A.mul a x.re, A.mul a x.im⟩

/-- `|z|²`. -/
def Arith.normSq (A : Arith R) (x : Cx R) : R := A.add (A.mul x.re x.re) (A.mul x.im x.im)

/-- `|z|`. -/
def Arith.cabs (A : Arith R) (x : Cx R) : R := A.sqrt (A.normSq x)

/-- A complex sum `f 0 + … + f (n − 1)`. -/
def Arith.csumTo (A : Arith R) (f : Nat → Cx R) : Nat → Cx R
  | 0 => A.czero
  | n + 1 => A.cadd (A.csumTo f n) (f n)

end Sys2Proof.Machine
end

