-- ==== Sys2Proof/Syntax.lean ====
section
/-! DEFINITION. The seventeen commands (30_encoding.md R86), one constructor per row of the opcode table. -/

namespace Sys2Proof

/-- A buffer number, 0 to 11 (10_state.md R40; NBUF of 00_scope.md R4). -/
abbrev BufId := Fin 12

namespace BufId
/-- The capture (10_state.md R40). -/
abbrev cap : BufId := 0
/-- Calibration capture, electronic noise only. -/
abbrev calE : BufId := 1
/-- Calibration capture, electronic and shot noise. -/
abbrev calES : BufId := 2
abbrev w0 : BufId := 3
abbrev w1 : BufId := 4
abbrev w2 : BufId := 5
abbrev w3 : BufId := 6
/-- The symbol stream, written by RUN. -/
abbrev out : BufId := 7
/-- Special-DSP symbols of CAL_E, written by SPECIAL. -/
abbrev spoE : BufId := 8
/-- Special-DSP symbols of CAL_ES, written by SPECIAL. -/
abbrev spoES : BufId := 9
/-- Recovered tone waveforms, written by RUN. -/
abbrev dbgTone : BufId := 10
/-- Symbols before the phase correction, written by RUN. -/
abbrev dbgPre : BufId := 11
end BufId

/-- A command with its buffer operands in the order destination, source, second source (30_encoding.md R90). -/
inductive Instr
  /-- R250 -/
  | nop
  /-- R251 -/
  | clrerr
  /-- R252 -/
  | sreset
  /-- R101 -/
  | downsample (bd bs : BufId)
  /-- R104 -/
  | bestpoint (bs : BufId)
  /-- R121 -/
  | zcgen (bd : BufId)
  /-- R123 -/
  | sync (bs : BufId)
  /-- R142 -/
  | find1 (bs : BufId)
  /-- R144 -/
  | find2 (bs : BufId)
  /-- R148 -/
  | tone (bd bs : BufId)
  /-- R152 -/
  | eqrate (bs : BufId)
  /-- R171 -/
  | phnoise (bd bs : BufId)
  /-- R174 -/
  | phcorr (bd bs bt : BufId)
  /-- R186 -/
  | fshift (bd bs : BufId)
  /-- R190 -/
  | mfilt (bd bs : BufId)
  /-- R200 -/
  | run
  /-- R240 -/
  | special
deriving DecidableEq, Repr

end Sys2Proof
end

