-- ==== Sys2Proof/Decode.lean ====
section
/-! DEFINITION. The command decoder and, after it, the encoder (30_encoding.md R80 to R88).
Decoding is total: a word that is no command is refused by name. -/

namespace Sys2Proof

/-- Why a word is not a command: the first two checks of 30_encoding.md R84, both of which the block
reports as ERR_ILLEGAL (R88). -/
inductive DecodeError
  /-- R84 item 1: no row of the opcode map matches (unknown opcode, or a bit set outside the row's mask). -/
  | noCommand
  /-- R84 item 2: a used buffer field holds 12, 13, 14 or 15. -/
  | noBuffer
deriving DecidableEq, Repr

/-- The five formats of R81. -/
inductive Format
  | z | s | d | ds | dst
deriving DecidableEq, Repr

/-- The bits that a format fixes (R81). -/
def Format.mask : Format → Word
  | .z => 0xFFFFFFFF#32
  | .s => 0xFFFF0FFF#32
  | .d => 0xFFFFF0FF#32
  | .ds => 0xFFFF00FF#32
  | .dst => 0xFFF000FF#32

/-- A row of the opcode map (R86): `build` makes the command from BD, BS and BT. -/
structure OpcodeRow where
  code : Word
  format : Format
  build : BufId → BufId → BufId → Instr

/-- The opcode map (R86), row by row. -/
def opcodeMap : List OpcodeRow :=
  [ ⟨0x00#32, .z, fun _ _ _ => .nop⟩,
    ⟨0x01#32, .z, fun _ _ _ => .clrerr⟩,
    ⟨0x02#32, .z, fun _ _ _ => .sreset⟩,
    ⟨0x10#32, .ds, fun bd bs _ => .downsample bd bs⟩,
    ⟨0x11#32, .s, fun _ bs _ => .bestpoint bs⟩,
    ⟨0x20#32, .d, fun bd _ _ => .zcgen bd⟩,
    ⟨0x21#32, .s, fun _ bs _ => .sync bs⟩,
    ⟨0x30#32, .s, fun _ bs _ => .find1 bs⟩,
    ⟨0x31#32, .s, fun _ bs _ => .find2 bs⟩,
    ⟨0x32#32, .ds, fun bd bs _ => .tone bd bs⟩,
    ⟨0x33#32, .s, fun _ bs _ => .eqrate bs⟩,
    ⟨0x34#32, .ds, fun bd bs _ => .phnoise bd bs⟩,
    ⟨0x35#32, .dst, fun bd bs bt => .phcorr bd bs bt⟩,
    ⟨0x40#32, .ds, fun bd bs _ => .fshift bd bs⟩,
    ⟨0x41#32, .ds, fun bd bs _ => .mfilt bd bs⟩,
    ⟨0x50#32, .z, fun _ _ _ => .run⟩,
    ⟨0x51#32, .z, fun _ _ _ => .special⟩ ]

/-- `w AND mask = match` (R81). -/
def OpcodeRow.selects (r : OpcodeRow) (w : Word) : Bool := (w &&& r.format.mask) == r.code

/-- The field BD, bits 11:8 (R80, R83). -/
def fieldBd (w : Word) : Nat := w.toNat / 2 ^ 8 % 16

/-- The field BS, bits 15:12 (R80, R83). -/
def fieldBs (w : Word) : Nat := w.toNat / 2 ^ 12 % 16

/-- The field BT, bits 19:16 (R80, R83). -/
def fieldBt (w : Word) : Nat := w.toNat / 2 ^ 16 % 16

/-- A 4-bit buffer number as it stands; 12 to 15 do not exist (10_state.md R40). -/
def bufferNumber (n : Nat) : Option BufId := if h : n < 12 then some ⟨n, h⟩ else none

/-- The command that a word stands for (R84 items 1 and 2). A field that the row does not use is 0 in a
word the row selects, so it names a buffer and hinders nothing. -/
def decode (w : Word) : Except DecodeError Instr :=
  match opcodeMap.find? (fun r => r.selects w) with
  | none => .error .noCommand
  | some r =>
    match bufferNumber (fieldBd w), bufferNumber (fieldBs w), bufferNumber (fieldBt w) with
    | some bd, some bs, some bt => .ok (r.build bd bs bt)
    | _, _, _ => .error .noBuffer

/-- The instruction the decoder reads from a table row's word: the bits above `nbits` are 0, and the
word is given to CMD by value (20_memory.md R61: no byte order). -/
def decodeTableWord (nbits w : Nat) : Option Instr :=
  match decode (BitVec.ofNat 32 (w % 2 ^ nbits)) with
  | .ok i => some i
  | .error _ => none

/-- A word from its opcode and its buffer fields (R80). -/
def commandWord (op bd bs bt : Nat) : Word := BitVec.ofNat 32 (op + bd * 2 ^ 8 + bs * 2 ^ 12 + bt * 2 ^ 16)

/-- The word of a command (R80, R81, R86): an unused field is 0. -/
def encode : Instr → Word
  | .nop => commandWord 0x00 0 0 0
  | .clrerr => commandWord 0x01 0 0 0
  | .sreset => commandWord 0x02 0 0 0
  | .downsample bd bs => commandWord 0x10 bd.val bs.val 0
  | .bestpoint bs => commandWord 0x11 0 bs.val 0
  | .zcgen bd => commandWord 0x20 bd.val 0 0
  | .sync bs => commandWord 0x21 0 bs.val 0
  | .find1 bs => commandWord 0x30 0 bs.val 0
  | .find2 bs => commandWord 0x31 0 bs.val 0
  | .tone bd bs => commandWord 0x32 bd.val bs.val 0
  | .eqrate bs => commandWord 0x33 0 bs.val 0
  | .phnoise bd bs => commandWord 0x34 bd.val bs.val 0
  | .phcorr bd bs bt => commandWord 0x35 bd.val bs.val bt.val
  | .fshift bd bs => commandWord 0x40 bd.val bs.val 0
  | .mfilt bd bs => commandWord 0x41 bd.val bs.val 0
  | .run => commandWord 0x50 0 0 0
  | .special => commandWord 0x51 0 0 0

end Sys2Proof
end

