-- ==== Sys2Proof/Machine/State.lean ====
section
/-! DEFINITION. The state of the block (10_state.md R20), the environment's events, the reasons a step can
stop, and the state after reset. Plain data. -/

namespace Sys2Proof.Machine

/-- The causes of a failed command (60_exceptions.md R280, without 0 = NONE). -/
inductive ErrCode
  /-- Code 1: the detection-schema tag is not 0 (RUN, SPECIAL). -/
  | errSchema
  /-- Code 2: insufficient pilot count (RUN). -/
  | errPilots
  /-- Code 3: the word matches no command or names buffer 12 to 15. -/
  | errIllegal
  /-- Code 4: the destination is not a work buffer, or is also a source. -/
  | errAlias
  /-- Code 5: an operand violates a stated precondition. -/
  | errArg
  /-- Code 6: CFG_ADC_RATE / CFG_SEQUENCE_RATE is not an integer >= 1 (RUN). -/
  | errSeqFactor
  /-- Code 7: a result does not fit. -/
  | errRange
  /-- Code 8: a division by zero or a non-positive value where a positive one is required. -/
  | errNumeric
deriving DecidableEq, Repr

/-- The flags of STATUS (10_state.md R23), in the order of their bits 0 to 10. -/
structure Status where
  busy : Bool
  done : Bool
  err : Bool
  errSticky : Bool
  resultValid : Bool
  snapValid : Bool
  dbgValid : Bool
  specialValid : Bool
  clockAborted : Bool
  short : Bool
  hostViol : Bool
deriving DecidableEq, Repr

/-- The argument bank (10_state.md R25). -/
structure ArgBank where
  start : Word
  factor : NUM
  freq : NUM
  rate : NUM
  repeats : Word
  guard : NUM
deriving DecidableEq, Repr

/-- The result bank (10_state.md R26). -/
structure ResBank where
  i0 : Word
  i1 : Word
  n0 : NUM
  n1 : NUM
deriving DecidableEq, Repr

/-- The configuration bank (10_state.md R27), over a number domain. -/
structure CfgBank (R : Type) where
  symbolRate : R
  dacRate : R
  adcRate : R
  numSymbols : Word
  rollOff : R
  frequencyShift : R
  numPilots : Word
  pilotFreq0 : R
  pilotFreq1 : R
  sequenceRoot : Word
  sequenceLength : Word
  sequenceRate : R
  clockShared : Bool
  loShared : Bool
  processSubframes : Bool
  subframeLength : Word
  firSize : Word
  toneCutoff : R
  abortClockThreshold : R
  numExcl : Word
  phaseFilterSize : Word
  beatSampleCount : Word
  detectionSchema : Word
  debug : Bool
deriving DecidableEq, Repr

/-- The snapshot bank (10_state.md R30). -/
structure SnapBank (R : Type) where
  symbolRate : R
  equiRate : R
  rollOff : R
  freqShift : R
  schema : Word
deriving DecidableEq, Repr

/-- The scalar part of the debug record (10_state.md R31). -/
structure DbgBank (R : Type) where
  fields : Word
  seqStart : Word
  seqEnd : Word
  dataStart : Word
  dataEnd : Word
  fPilot0 : R
  fPilot1 : R
  fBeat : R
  deltaF : R
  equiRate : R
deriving DecidableEq, Repr

/-- The buffers: B[b] is a sequence of complex elements, and LEN[b] is its length (10_state.md R33, R40, R41). -/
abbrev Memory := Vector (List (Cx NUM)) 12

/-- Every buffer holds at most BUF_MAX elements (10_state.md R33). -/
def Memory.wf (m : Memory) : Bool := m.all (fun a => decide (a.length ≤ Config.bufMax))

/-- A host access (20_memory.md R62 to R65). A register write drives both typed ports, 32 bits and one NUM
value; the register takes the port of its type (10_state.md, register types; log 8). -/
inductive HostAction
  /-- `RegRead(n)` -/
  | regRead (n : Nat)
  /-- `RegWrite(n, v)` -/
  | regWrite (n : Nat) (word : Word) (num : NUM)
  /-- `RegWrite(n, v)` with the value `v` that the host's last read returned: the second half of
  `MOV regA, regB` (30_encoding.md R91). -/
  | regCopy (n : Nat)
  /-- `BufRead(b, i)` -/
  | bufRead (b i : Nat)
  /-- `BufWrite(b, i, v)` -/
  | bufWrite (b i : Nat) (v : Cx NUM)
deriving DecidableEq, Repr

/-- What the environment does next (log 3). -/
inductive Event
  /-- The host makes one access (00_scope.md R17). -/
  | host (a : HostAction)
  /-- The host does nothing: the block takes its step if it has one (20_memory.md R67). -/
  | blockTurn
  /-- `WAIT`: the host reads STATUS until BUSY is 0 (30_encoding.md R91). -/
  | wait
  /-- The reset input is applied (70_reset_and_hazards.md R310). -/
  | reset
deriving DecidableEq, Repr

/-- What a host read returns. -/
inductive HostAnswer
  /-- The value of a U32 or BOOL register. -/
  | word (w : Word)
  /-- The value of a NUM register. -/
  | num (x : NUM)
  /-- An element of a buffer. -/
  | elem (c : Cx NUM)
deriving DecidableEq, Repr

/-- Why a step ends in a fault: never. "No behaviour of the block is undefined or unpredictable: for every
state and every host action ... exactly one next state" (70_reset_and_hazards.md R320). The type has no
constructor, so nothing can raise one; this is safe. -/
inductive Fault
deriving DecidableEq, Repr

/-- Why a step is refused. -/
inductive Refusal
  /-- An instruction without a meaning in this model, raised by an arm of `exec` only. No arm raises it:
  every command has its meaning. Raising it would be safe: no claim about a next state follows from it. -/
  | notModelled (mnemonic : String)
deriving DecidableEq, Repr

/-- The state of the machine: everything 10_state.md R20 lists, and two fields of the model. -/
structure State where
  /-- STATUS (R23). -/
  status : Status
  /-- ERRCODE (R24). -/
  errCode : Word
  /-- ERRINFO (R24). -/
  errInfo : Word
  /-- The latched command word while a command runs, 0 otherwise (R20 item h; log 4). -/
  latch : Word
  /-- ARG_* (R25). -/
  arg : ArgBank
  /-- RES_* (R26). -/
  res : ResBank
  /-- CFG_* (R27). -/
  cfg : CfgBank NUM
  /-- CFG_EXCL_LO[i]; an entry beyond the list is 0 (R29; log 11). -/
  exclLo : List NUM
  /-- CFG_EXCL_HI[i]; an entry beyond the list is 0 (R29; log 11). -/
  exclHi : List NUM
  /-- SNAP_* (R30). -/
  snap : SnapBank NUM
  /-- DBG_* (R31). -/
  dbg : DbgBank NUM
  /-- SF_COUNT (R32). -/
  sfCount : Word
  /-- SF_LEN[j]; an entry beyond the list reads 0 (R32). -/
  sfLen : List Word
  /-- DBG_TLEN[j]; an entry beyond the list reads 0 (R32). -/
  dbgTlen : List Word
  /-- B[b] with LEN[b] (R33, R40). -/
  mem : Memory
  /-- MODEL FIELD: what the environment does next (log 3). -/
  agenda : List Event
  /-- MODEL FIELD: what the last host read returned (log 3). -/
  answer : HostAnswer
deriving DecidableEq, Repr

/-- STATUS = 0 (R23). -/
def Status.reset : Status where
  busy := false
  done := false
  err := false
  errSticky := false
  resultValid := false
  snapValid := false
  dbgValid := false
  specialValid := false
  clockAborted := false
  short := false
  hostViol := false

/-- The argument bank after reset (R25). -/
def ArgBank.reset : ArgBank where
  start := 0#32
  factor := .rat 1
  freq := .rat 0
  rate := .rat 0
  repeats := 1#32
  guard := .rat Config.guardBand

/-- The result bank after reset (R26). -/
def ResBank.reset : ResBank where
  i0 := 0#32
  i1 := 0#32
  n0 := .rat 0
  n1 := .rat 0

/-- The configuration bank after reset (R27). -/
def CfgBank.reset : CfgBank NUM where
  symbolRate := .rat 0
  dacRate := .rat 0
  adcRate := .rat 0
  numSymbols := 0#32
  rollOff := .rat 0
  frequencyShift := .rat 0
  numPilots := 0#32
  pilotFreq0 := .rat 0
  pilotFreq1 := .rat 0
  sequenceRoot := 0#32
  sequenceLength := 0#32
  sequenceRate := .rat 0
  clockShared := false
  loShared := false
  processSubframes := false
  subframeLength := 0#32
  firSize := 500#32
  toneCutoff := .rat 10000000
  abortClockThreshold := .rat 0
  numExcl := 0#32
  phaseFilterSize := 0#32
  beatSampleCount := 100000#32
  detectionSchema := 0#32
  debug := false

/-- The snapshot bank after reset (R30). -/
def SnapBank.reset : SnapBank NUM where
  symbolRate := .rat 0
  equiRate := .rat 0
  rollOff := .rat 0
  freqShift := .rat 0
  schema := 0#32

/-- The debug bank after reset, and after the launch of a RUN (R31). -/
def DbgBank.reset : DbgBank NUM where
  fields := 0#32
  seqStart := 0#32
  seqEnd := 0#32
  dataStart := 0#32
  dataEnd := 0#32
  fPilot0 := .rat 0
  fPilot1 := .rat 0
  fBeat := .rat 0
  deltaF := .rat 0
  equiRate := .rat 0

/-- The machine right after reset (10_state.md R44, 70_reset_and_hazards.md R310). The agenda is empty: a
program is given from outside (log 3). -/
def State.reset : State where
  status := Status.reset
  errCode := 0#32
  errInfo := 0#32
  latch := 0#32
  arg := ArgBank.reset
  res := ResBank.reset
  cfg := CfgBank.reset
  exclLo := []
  exclHi := []
  snap := SnapBank.reset
  dbg := DbgBank.reset
  sfCount := 0#32
  sfLen := []
  dbgTlen := []
  mem := Vector.replicate 12 []
  agenda := []
  answer := .word 0#32

end Sys2Proof.Machine
end

