-- ==== Sys2Proof/Machine/Flags.lean ====
section
/-! DEFINITION. The STATUS word and every update of its flags (10_state.md R23). -/

namespace Sys2Proof.Machine

/-- A flag at its bit of the STATUS word. -/
def flagBit (b : Bool) (n : Nat) : Nat := if b then 2 ^ n else 0

/-- The STATUS register as the host reads it; bits 31:11 are 0 (R23). -/
def Status.word (f : Status) : Word :=
  BitVec.ofNat 32 (flagBit f.busy 0 + flagBit f.done 1 + flagBit f.err 2 + flagBit f.errSticky 3
    + flagBit f.resultValid 4 + flagBit f.snapValid 5 + flagBit f.dbgValid 6 + flagBit f.specialValid 7
    + flagBit f.clockAborted 8 + flagBit f.short 9 + flagBit f.hostViol 10)

/-- The launch of any command (20_memory.md R66). -/
def Status.launched (f : Status) : Status := { f with busy := true, done := false, err := false }

/-- The launch-time clears of RUN (R66, R23). -/
def Status.runCleared (f : Status) : Status :=
  { f with resultValid := false, snapValid := false, dbgValid := false, clockAborted := false, short := false }

/-- The launch-time clear of SPECIAL (R66, R23). -/
def Status.specialCleared (f : Status) : Status := { f with specialValid := false }

/-- Completion without error (R67). -/
def Status.completed (f : Status) : Status := { f with busy := false, done := true }

/-- Completion with an error (60_exceptions.md R284). -/
def Status.failed (f : Status) : Status := { f with busy := false, err := true, errSticky := true }

/-- A refused host access (R68). -/
def Status.violated (f : Status) : Status := { f with hostViol := true }

/-- The acknowledgement of CLRERR (47_system.md R251). -/
def Status.acknowledged (f : Status) : Status := { f with errSticky := false, hostViol := false }

/-- A host write to a SNAP register (10_state.md R30). -/
def Status.snapTouched (f : Status) : Status := { f with snapValid := false }

/-- The valid flags of a successful RUN (45_pipeline.md R207, R222, R224, R226). -/
def Status.runDone (f : Status) (debug aborted short : Bool) : Status :=
  { f with
    resultValid := true
    snapValid := true
    dbgValid := f.dbgValid || debug
    clockAborted := aborted
    short := short }

/-- The valid flag of a successful SPECIAL (46_special_dsp.md R240). -/
def Status.specialDone (f : Status) : Status := { f with specialValid := true }

/-- The value of ERRCODE for a cause (60_exceptions.md R280). -/
def ErrCode.code : ErrCode → Word
  | .errSchema => 1#32
  | .errPilots => 2#32
  | .errIllegal => 3#32
  | .errAlias => 4#32
  | .errArg => 5#32
  | .errSeqFactor => 6#32
  | .errRange => 7#32
  | .errNumeric => 8#32

end Sys2Proof.Machine
end

