-- ==== Sys2Proof/Machine/Ops.lean ====
section
/-! DEFINITION. The named operations over buffers and registers, and the protocol of a command: launch
(20_memory.md R66), completion (R67) and the failure update (60_exceptions.md R284). -/

namespace Sys2Proof.Machine

/-- B[b] (10_state.md R40). -/
def State.buf (s : State) (b : BufId) : List (Cx NUM) := s.mem[b]

/-- LEN[b] (10_state.md R33): the length of B[b], one storage for both. -/
def State.lenWord (s : State) (b : BufId) : Word := BitVec.ofNat 32 (s.buf b).length

/-- `B[b] <- a`, which sets the content and LEN[b] together (00_scope.md section 5, 47_system.md R254). -/
def State.setBuf (s : State) (b : BufId) (a : List (Cx NUM)) : State := { s with mem := s.mem.set b a }

/-- Element `i` of B[b], where it exists (20_memory.md R60, R62). -/
def Memory.read (m : Memory) (b i : Nat) : Option (Cx NUM) :=
  if h : b < 12 then m[b][i]? else none

/-- The content of a buffer after a write of its length register: old elements stay, new ones are 0
(10_state.md R33). -/
def resize (a : List (Cx NUM)) (n : Nat) : List (Cx NUM) :=
  a.take n ++ List.replicate (n - a.length) ⟨.rat 0, .rat 0⟩

/-- Entry `i` of a table of NUM registers; an entry beyond the list is 0 (10_state.md R29; log 11). -/
def tableEntry (t : List NUM) (i : Nat) : NUM := (t[i]?).getD (NUM.rat 0)

/-- A table without the entries of 0 at its end: equal tables are equal lists (log 11). -/
def trimTable : List NUM → List NUM
  | [] => []
  | x :: rest =>
    match trimTable rest with
    | [] => if x = .rat 0 then [] else [x]
    | y :: tail => x :: y :: tail

/-- A write of entry `i` of a table. -/
def tableSet (t : List NUM) (i : Nat) (x : NUM) : List NUM :=
  trimTable ((t ++ List.replicate (i + 1 - t.length) (NUM.rat 0)).set i x)

/-- Result registers (10_state.md R26). -/
def State.setI0 (s : State) (w : Word) : State := { s with res := { s.res with i0 := w } }
def State.setI1 (s : State) (w : Word) : State := { s with res := { s.res with i1 := w } }
def State.setN0 (s : State) (x : NUM) : State := { s with res := { s.res with n0 := x } }
def State.setN1 (s : State) (x : NUM) : State := { s with res := { s.res with n1 := x } }

/-- A natural number as the value of a U32 register. Every number a rule stores in one is below 2^32
(00_scope.md R15), so nothing wraps. -/
def wordOf (n : Nat) : Word := BitVec.ofNat 32 n

/-- The failure update, the block's one kind of exceptional event (60_exceptions.md R281, R284). DONE stays
as the launch left it; nothing else changes; there is no return from it (R285). -/
def State.fail (s : State) (e : ErrCode) : State :=
  { s with status := s.status.failed, errCode := e.code, errInfo := s.latch, latch := 0#32 }

/-- Completion without error (20_memory.md R67), after the destinations were written. -/
def State.succeed (s : State) : State :=
  { s with status := s.status.completed, errCode := 0#32, latch := 0#32 }

/-- The completion of a command: `r` holds the state with every destination written, or the error that
the command's rule raised. It is one indivisible update (R67): on an error no destination is written. -/
def State.complete (s : State) (r : Except ErrCode State) : State :=
  match r with
  | .ok t => t.succeed
  | .error e => s.fail e

/-- The state of the block after reset; the environment's fields are not the block's (70_reset_and_hazards.md
R310). -/
def State.resetBlock (s : State) : State := { State.reset with agenda := s.agenda, answer := s.answer }

/-- The launch-time clears of RUN on banks, tables and buffers (20_memory.md R66). -/
def State.clearForRun (s : State) : State :=
  ((({ s with
      status := s.status.runCleared
      dbg := DbgBank.reset
      sfCount := 0#32
      sfLen := []
      dbgTlen := [] }.setBuf BufId.out []).setBuf BufId.dbgTone []).setBuf BufId.dbgPre [])

/-- The launch-time clears of SPECIAL (20_memory.md R66). -/
def State.clearForSpecial (s : State) : State :=
  (({ s with status := s.status.specialCleared }.setBuf BufId.spoE []).setBuf BufId.spoES [])

/-- The launch-time clears of the command that a word encodes (R66). -/
def State.launchClears (s : State) (w : Word) : State :=
  match decode w with
  | .ok .run => s.clearForRun
  | .ok .special => s.clearForSpecial
  | _ => s

/-- The launch of a command word by an accepted write of CMD (R66). -/
def State.launch (s : State) (w : Word) : State :=
  { s.launchClears w with latch := w, status := (s.launchClears w).status.launched }

end Sys2Proof.Machine
end

