-- ==== Sys2Proof/WellFormed.lean ====
section
/-! DEFINITION. The static checks on a command's operands: the destination rule of 30_encoding.md R85.
A command that breaks it is still decoded and still runs: it completes with ERR_ALIAS (R84 item 3), which
its meaning says. -/

namespace Sys2Proof

/-- The work buffers W0 to W3 (10_state.md R40). -/
def BufId.isWork (b : BufId) : Bool := decide (3 ≤ b.val) && decide (b.val ≤ 6)

/-- A destination is a work buffer and differs from every source (30_encoding.md R85). -/
def destinationOk (bd : BufId) (sources : List BufId) : Bool := bd.isWork && !(sources.contains bd)

/-- The operands of a command obey R85. Commands without a destination have nothing to check. -/
def Instr.wellFormed : Instr → Bool
  | .nop => true
  | .clrerr => true
  | .sreset => true
  | .downsample bd bs => destinationOk bd [bs]
  | .bestpoint _ => true
  | .zcgen bd => destinationOk bd []
  | .sync _ => true
  | .find1 _ => true
  | .find2 _ => true
  | .tone bd bs => destinationOk bd [bs]
  | .eqrate _ => true
  | .phnoise bd bs => destinationOk bd [bs]
  | .phcorr bd bs bt => destinationOk bd [bs, bt]
  | .fshift bd bs => destinationOk bd [bs]
  | .mfilt bd bs => destinationOk bd [bs]
  | .run => true
  | .special => true

end Sys2Proof
end

