-- ==== Sys2Proof/Machine/Operands.lean ====
section
/-! DEFINITION. How a command takes its operands beside the plain registers: the exclusion zones, and
real-valued buffers (10_state.md R29, R41). The destination check of 30_encoding.md R85 is `destinationOk`
of WellFormed.lean; every meaning makes it first (R84 item 3, 60_exceptions.md R283). -/

namespace Sys2Proof.Machine

/-- ZONES, the first `min(CFG_NUM_EXCL, MAX_EXCL)` pairs of the exclusion-zone table (10_state.md R29). -/
def State.zones (s : State) : List (NUM × NUM) :=
  ((List.range Config.maxExcl).take s.cfg.numExcl.toNat).map fun i =>
    (tableEntry s.exclLo i, tableEntry s.exclHi i)

/-- The real parts of a buffer's elements, for a real-valued operand (10_state.md R41). -/
def reals {R : Type} (x : List (Cx R)) : List R := x.map Cx.re

/-- A real sequence as the content of a buffer (10_state.md R41). -/
def Arith.ofReals {R : Type} (A : Arith R) (x : List R) : List (Cx R) := x.map A.ofReal

end Sys2Proof.Machine
end

