-- ==== Sys2Proof/Machine/Primitives.lean ====
section
/-! DEFINITION. The numeric primitives of 00_scope.md section 7 (R5 to R12 and R16), written over any
arithmetic record. -/

namespace Sys2Proof.Machine

variable {R : Type}

/-- Round half down, `ceil(x − 1/2)` (R5). -/
def Arith.rhd (A : Arith R) (x : R) : Int := A.ceil (A.sub x (A.rat (1 / 2)))

/-- A scan that keeps the best index so far and changes it only for a greater value (R6). -/
def Arith.bestFrom (A : Arith R) (j : Nat) (v : R) : List (Nat × R) → Nat
  | [] => j
  | (k, u) :: rest => if A.lt v u then A.bestFrom k u rest else A.bestFrom j v rest

/-- The first index of the greatest value in a list of (index, value) pairs with rising indices (R6). -/
def Arith.argmaxFirst (A : Arith R) : List (Nat × R) → Option Nat
  | [] => none
  | (j, v) :: rest => some (A.bestFrom j v rest)

/-- Element `n` of a complex sequence; 0 outside it. -/
def Arith.elem (A : Arith R) (x : List (Cx R)) (n : Nat) : Cx R := x.getD n A.czero

/-- Element `n` of a real sequence; 0 outside it. -/
def Arith.relem (A : Arith R) (x : List R) (n : Nat) : R := x.getD n A.zero

/-- Element `n` of a complex sequence at an integer index, 0 outside it (R10). -/
def Arith.elemAt (A : Arith R) (x : List (Cx R)) (n : Int) : Cx R :=
  if 0 ≤ n then A.elem x n.toNat else A.czero

/-- The mean of a real sequence (R7). -/
def Arith.mean (A : Arith R) (x : List R) : R :=
  A.mul (A.div A.one (A.nat x.length)) (A.sumTo (A.relem x) x.length)

/-- The mean of a complex sequence (R7). -/
def Arith.cmean (A : Arith R) (z : List (Cx R)) : Cx R :=
  A.cscale (A.div A.one (A.nat z.length)) (A.csumTo (A.elem z) z.length)

/-- The population variance of a complex sequence (R7). -/
def Arith.var (A : Arith R) (z : List (Cx R)) : R :=
  let m := A.cmean z
  A.mul (A.div A.one (A.nat z.length)) (A.sumTo (fun k => A.normSq (A.csub (A.elem z k) m)) z.length)

/-- The principal argument, 0 at 0 (R8). -/
def Arith.angle (A : Arith R) (z : Cx R) : R :=
  if A.eq z.re A.zero && A.eq z.im A.zero then A.zero else A.atan2 z.im z.re

/-- `exp(i·t) = cos t + i·sin t` (R8). -/
def Arith.cis (A : Arith R) (t : R) : Cx R := ⟨A.cos t, A.sin t⟩

/-- Twice the circle constant. -/
def Arith.twoPi (A : Arith R) : R := A.mul (A.rat 2) A.pi

/-- One step of the unwrapping (R9). -/
def Arith.wstep (A : Arith R) (d : R) : R :=
  if A.le (A.abs d) A.pi then d
  else
    let a := A.abs d
    let w := A.sub a (A.mul A.twoPi (A.int (A.ceil (A.div (A.sub a A.pi) A.twoPi))))
    if A.isPos d then w else A.neg w

/-- The unwrapped sequence after an element `p` that was unwrapped to `u` (R9). -/
def Arith.unwrapFrom (A : Arith R) (p u : R) : List R → List R
  | [] => []
  | q :: rest =>
    let v := A.add u (A.wstep (A.sub q p))
    v :: A.unwrapFrom q v rest

/-- The phase unwrapping (R9). -/
def Arith.unwrap (A : Arith R) : List R → List R
  | [] => []
  | p :: rest => p :: A.unwrapFrom p p rest

/-- The index of the centre tap of `T` taps (R10). -/
def centre (T : Nat) : Nat := (T - 1) / 2

/-- The centred convolution with the length of its first argument (R10). -/
def Arith.convSame (A : Arith R) (x h : List (Cx R)) : List (Cx R) :=
  (List.range x.length).map fun n =>
    A.csumTo (fun k => A.cmul (A.elem h k) (A.elemAt x ((n : Int) + centre h.length - k))) h.length

/-- Bin `k` of the discrete Fourier transform (R11). -/
def Arith.dftBin (A : Arith R) (x : List (Cx R)) (k : Nat) : Cx R :=
  A.csumTo (fun n => A.cmul (A.elem x n)
    (A.cis (A.mul A.pi (A.rat (-2 * (k : Rat) * (n : Rat) / (x.length : Rat)))))) x.length

/-- The discrete Fourier transform (R11). -/
def Arith.dft (A : Arith R) (x : List (Cx R)) : List (Cx R) := (List.range x.length).map (A.dftBin x)

/-- The frequency in hertz of bin `k` of `N` at a sample rate (R11). -/
def Arith.binFreq (A : Arith R) (rate : R) (N k : Nat) : R := A.div (A.mul (A.nat k) rate) (A.nat N)

/-- The least-squares slope of `y` over `t` (R12). -/
def Arith.slope (A : Arith R) (t y : List R) : R :=
  let mt := A.mean t
  let my := A.mean y
  A.div
    (A.sumTo (fun n => A.mul (A.sub (A.relem t n) mt) (A.sub (A.relem y n) my)) t.length)
    (A.sumTo (fun n => A.mul (A.sub (A.relem t n) mt) (A.sub (A.relem t n) mt)) t.length)

/-- Every element repeated `q` times in place (R16). -/
def repeatEach {α : Type} (a : List α) (q : Nat) : List α := a.flatMap (fun x => List.replicate q x)

end Sys2Proof.Machine
end

