-- ==== Sys2Proof/Machine/Filter.lean ====
section
/-! DEFINITION. Frequency de-shift and matched filter: the functions `fshift`, `rrc` and `mfilt`, and the
commands FSHIFT and MFILT (44_filter.md). -/

namespace Sys2Proof.Machine

variable {R : Type}

/-- `fshift(x, f, fs)` (R185). -/
def Arith.fshift (A : Arith R) (x : List (Cx R)) (f fs : R) : List (Cx R) :=
  (List.range x.length).map fun n =>
    A.cmul (A.elem x n) (A.cis (A.div (A.mul (A.mul (A.neg A.twoPi) f) (A.nat n)) fs))

/-- The tap count `floor(10·sps + 2)` of the matched filter (R189). -/
def Arith.filterTaps (A : Arith R) (sps : R) : Nat :=
  (A.floor (A.add (A.mul (A.rat 10) sps) (A.rat 2))).toNat

/-- `g(0)` (R187). -/
def Arith.rrcPeak (A : Arith R) (β : R) : R :=
  A.add (A.sub A.one β) (A.div (A.mul (A.rat 4) β) A.pi)

/-- `g(±1/(4·β))` (R187). -/
def Arith.rrcSpecial (A : Arith R) (β : R) : R :=
  let θ := A.div A.pi (A.mul (A.rat 4) β)
  let twoOverPi := A.div (A.rat 2) A.pi
  A.mul (A.div β (A.sqrt (A.rat 2)))
    (A.add (A.mul (A.add A.one twoOverPi) (A.sin θ)) (A.mul (A.sub A.one twoOverPi) (A.cos θ)))

/-- `g(u)` away from the two special points (R187). -/
def Arith.rrcPlain (A : Arith R) (β u : R) : R :=
  let πu := A.mul A.pi u
  let v := A.mul (A.mul (A.rat 4) β) u
  A.div
    (A.add (A.sin (A.mul πu (A.sub A.one β))) (A.mul v (A.cos (A.mul πu (A.add A.one β)))))
    (A.mul πu (A.sub A.one (A.mul v v)))

/-- `g(u)`, the root-raised-cosine impulse response at `u` symbol periods (R187). -/
def Arith.rrcAt (A : Arith R) (β u : R) : R :=
  if A.eq u A.zero then A.rrcPeak β
  else if A.isPos β && A.eq (A.abs u) (A.div A.one (A.mul (A.rat 4) β)) then A.rrcSpecial β
  else A.rrcPlain β u

/-- `rrc(T, β, Ts, fs)` (R187). -/
def Arith.rrc (A : Arith R) (T : Nat) (β Ts fs : R) : List R :=
  (List.range T).map fun n => A.rrcAt β (A.div (A.int ((n : Int) - centre T)) (A.mul fs Ts))

/-- `mfilt(x, sps, β, Rs, fs)` (R191). -/
def Arith.mfilt (A : Arith R) (x : List (Cx R)) (sps β Rs fs : R) : List (Cx R) :=
  (A.convSame x (A.ofReals (A.rrc (A.filterTaps sps) β (A.div A.one Rs) fs))).map
    (A.cscale (A.div A.one (A.sqrt sps)))

/-- The rule of FSHIFT (R186). -/
noncomputable def fshiftRule (s : State) (bd bs : BufId) : Except ErrCode State :=
  let x := s.buf bs
  let f := s.arg.freq
  let fs := s.arg.rate
  if !destinationOk bd [bs] then .error .errAlias
  else if x.isEmpty || !numArith.isPos fs then .error .errArg
  else .ok (s.setBuf bd (numArith.fshift x f fs))

/-- FSHIFT bd, bs (R186). -/
noncomputable def execFshift (bd bs : BufId) (s : State) : Host.Outcome State Fault Refusal :=
  .next (s.complete (fshiftRule s bd bs))

/-- `0 <= β <= 1` (R187, R190, R205, R240). -/
def Arith.rollOffOk (A : Arith R) (β : R) : Bool := A.le A.zero β && A.le β A.one

/-- The rule of MFILT (R190). -/
noncomputable def mfiltRule (s : State) (bd bs : BufId) : Except ErrCode State :=
  let x := s.buf bs
  let sps := s.arg.factor
  let fs := s.arg.rate
  let β := s.cfg.rollOff
  let Rs := s.cfg.symbolRate
  if !destinationOk bd [bs] then .error .errAlias
  else if !numArith.isPos sps || !numArith.isPos fs || !numArith.isPos Rs || !numArith.rollOffOk β then
    .error .errArg
  else if x.length < numArith.filterTaps sps then .error .errArg
  else .ok (s.setBuf bd (numArith.mfilt x sps β Rs fs))

/-- MFILT bd, bs (R190). -/
noncomputable def execMfilt (bd bs : BufId) (s : State) : Host.Outcome State Fault Refusal :=
  .next (s.complete (mfiltRule s bd bs))

end Sys2Proof.Machine
end

