-- ==== Sys2Proof/Machine/Pilot.lean ====
section
/-! DEFINITION. The pilot-tone extractor: the functions `find1`, `find2`, `lowpass`, `tone`, `phasediff` and
`eqrate`, and the commands FIND1, FIND2, TONE and EQRATE (42_pilot_tone.md). -/

namespace Sys2Proof.Machine

variable {R : Type}

/-- A frequency is excluded by a set of zones, both ends of a zone included (R141). -/
def Arith.excluded (A : Arith R) (zones : List (R × R)) (f : R) : Bool :=
  zones.any fun z => A.le z.1 f && A.le f z.2

/-- The bins `1 <= k <= ceil(N/2) − 1` that are not excluded, with their magnitudes (R143). -/
def Arith.pilotBins (A : Arith R) (x : List (Cx R)) (rate : R) (zones : List (R × R)) : List (Nat × R) :=
  (List.range' 1 ((x.length + 1) / 2 - 1)).filterMap fun k =>
    if A.excluded zones (A.binFreq rate x.length k) then none else some (k, A.cabs (A.dftBin x k))

/-- `find1(x, rate, Z)` (R143). -/
def Arith.find1 (A : Arith R) (x : List (Cx R)) (rate : R) (zones : List (R × R)) : Except ErrCode R :=
  match A.argmaxFirst (A.pilotBins x rate zones) with
  | none => .error .errArg
  | some k => .ok (A.binFreq rate x.length k)

/-- `find2(x, rate, Z, G)` (R145): lower and upper pilot. -/
def Arith.find2 (A : Arith R) (x : List (Cx R)) (rate : R) (zones : List (R × R)) (G : R) :
    Except ErrCode (R × R) :=
  match A.find1 x rate zones with
  | .error e => .error e
  | .ok fa =>
    match A.find1 x rate ((A.sub fa G, A.add fa G) :: zones) with
    | .error e => .error e
    | .ok fb => .ok (A.lesser fa fb, A.greater fa fb)

/-- `sin(π·t)/(π·t)`, 1 at 0 (R146). -/
def Arith.sinc (A : Arith R) (t : R) : R :=
  if A.eq t A.zero then A.one else A.div (A.sin (A.mul A.pi t)) (A.mul A.pi t)

/-- The Hamming window `win[n]` of `T` taps (R146). -/
def Arith.hamming (A : Arith R) (T n : Nat) : R :=
  if T = 1 then A.one
  else A.sub (A.rat (54 / 100)) (A.mul (A.rat (46 / 100)) (A.cos (A.mul A.pi (A.rat (2 * (n : Rat) / ((T : Rat) - 1))))))

/-- `g[n]`, the windowed tap before the normalisation (R146). -/
def Arith.lowpassTap (A : Arith R) (T : Nat) (fc fs : R) (n : Nat) : R :=
  let m := A.rat ((n : Rat) - ((T : Rat) - 1) / 2)
  let ratio := A.div (A.mul (A.rat 2) fc) fs
  A.mul (A.mul ratio (A.sinc (A.div (A.mul (A.mul (A.rat 2) fc) m) fs))) (A.hamming T n)

/-- `lowpass(T, fc, fs)` (R146): fails when the taps sum to 0. -/
def Arith.lowpass (A : Arith R) (T : Nat) (fc fs : R) : Except ErrCode (List R) :=
  let total := A.sumTo (A.lowpassTap T fc fs) T
  if A.eq total A.zero then .error .errNumeric
  else .ok ((List.range T).map fun n => A.div (A.lowpassTap T fc fs n) total)

/-- The low-pass taps modulated to the centre frequency (R147). -/
def Arith.toneTaps (A : Arith R) (lp : List R) (f0 fs : R) : List (Cx R) :=
  (List.range lp.length).map fun k =>
    A.cscale (A.relem lp k)
      (A.cis (A.div (A.mul (A.mul A.twoPi f0) (A.int ((k : Int) - centre lp.length))) fs))

/-- `tone(x, f0, fs, T, fc)` (R147). -/
def Arith.tone (A : Arith R) (x : List (Cx R)) (f0 fs : R) (T : Nat) (fc : R) : Except ErrCode (List (Cx R)) :=
  if T == 0 || !A.isPos fs || !(A.isPos fc && A.lt fc (A.div fs (A.rat 2))) then .error .errArg
  else
    match A.lowpass T fc fs with
    | .error e => .error e
    | .ok lp => .ok (A.convSame x (A.toneTaps lp f0 fs))

/-- `phasediff(t, f, fs)` (R150). -/
def Arith.phasediff (A : Arith R) (t : List (Cx R)) (f fs : R) : List R :=
  A.unwrap ((List.range t.length).map fun n =>
    A.sub (A.angle (A.elem t n)) (A.angle (A.cis (A.div (A.mul (A.mul A.twoPi f) (A.nat n)) fs))))

/-- `eqrate(x, f, fs, T, fc)` (R151): the equivalent rate and the frequency residual. -/
def Arith.eqrate (A : Arith R) (x : List (Cx R)) (f fs : R) (T : Nat) (fc : R) : Except ErrCode (R × R) :=
  if decide (x.length < 2) || A.eq f A.zero then .error .errArg
  else
    match A.tone x f fs T fc with
    | .error e => .error e
    | .ok t =>
      let ψ := A.phasediff t f fs
      let τ := (List.range x.length).map fun n => A.div (A.nat n) fs
      let Δf := A.div (A.slope τ ψ) A.twoPi
      if A.eq (A.add f Δf) A.zero then .error .errNumeric
      else .ok (A.div fs (A.div (A.add f Δf) f), Δf)

/-- The rule of FIND1 (R142). -/
noncomputable def find1Rule (s : State) (bs : BufId) : Except ErrCode State :=
  let x := s.buf bs
  let rate := s.arg.rate
  if decide (x.length < 3) || !numArith.isPos rate then .error .errArg
  else
    match numArith.find1 x rate s.zones with
    | .error e => .error e
    | .ok f => .ok (s.setN0 f)

/-- FIND1 bs (R142). -/
noncomputable def execFind1 (bs : BufId) (s : State) : Host.Outcome State Fault Refusal :=
  .next (s.complete (find1Rule s bs))

/-- The rule of FIND2 (R144). -/
noncomputable def find2Rule (s : State) (bs : BufId) : Except ErrCode State :=
  let x := s.buf bs
  let rate := s.arg.rate
  let G := s.arg.guard
  if decide (x.length < 3) || !numArith.isPos rate || !numArith.le numArith.zero G then .error .errArg
  else
    match numArith.find2 x rate s.zones G with
    | .error e => .error e
    | .ok f => .ok ((s.setN0 f.1).setN1 f.2)

/-- FIND2 bs (R144). -/
noncomputable def execFind2 (bs : BufId) (s : State) : Host.Outcome State Fault Refusal :=
  .next (s.complete (find2Rule s bs))

/-- `0 < fc < fs/2` (R148, R152). -/
def Arith.cutoffOk (A : Arith R) (fc fs : R) : Bool := A.isPos fc && A.lt fc (A.div fs (A.rat 2))

/-- The rule of TONE (R148). -/
noncomputable def toneRule (s : State) (bd bs : BufId) : Except ErrCode State :=
  let x := s.buf bs
  let f0 := s.arg.freq
  let fs := s.arg.rate
  let T := s.cfg.firSize.toNat
  let fc := s.cfg.toneCutoff
  if !destinationOk bd [bs] then .error .errAlias
  else if T == 0 || decide (x.length < T) || !numArith.isPos fs || !numArith.cutoffOk fc fs then .error .errArg
  else
    match numArith.tone x f0 fs T fc with
    | .error e => .error e
    | .ok y => .ok (s.setBuf bd y)

/-- TONE bd, bs (R148). -/
noncomputable def execTone (bd bs : BufId) (s : State) : Host.Outcome State Fault Refusal :=
  .next (s.complete (toneRule s bd bs))

/-- The rule of EQRATE (R152). -/
noncomputable def eqrateRule (s : State) (bs : BufId) : Except ErrCode State :=
  let x := s.buf bs
  let f := s.arg.freq
  let fs := s.arg.rate
  let T := s.cfg.firSize.toNat
  let fc := s.cfg.toneCutoff
  if T == 0 || decide (x.length < T) || decide (x.length < 2) || numArith.eq f numArith.zero
      || !numArith.isPos fs || !numArith.cutoffOk fc fs then .error .errArg
  else
    match numArith.eqrate x f fs T fc with
    | .error e => .error e
    | .ok r => .ok ((s.setN0 r.1).setN1 r.2)

/-- EQRATE bs (R152). -/
noncomputable def execEqrate (bs : BufId) (s : State) : Host.Outcome State Fault Refusal :=
  .next (s.complete (eqrateRule s bs))

end Sys2Proof.Machine
end

