-- ==== Sys2Proof/Machine/Resampler.lean ====
section
/-! DEFINITION. The resampler: the functions `downsample` and `bestpoint`, and the commands DOWNSAMPLE and
BESTPOINT (40_resampler.md). -/

namespace Sys2Proof.Machine

variable {R : Type}

/-- `pos(k) = rhd(start + k·f)` (R102). The single product, not a running sum (70_reset_and_hazards.md R325). -/
def Arith.pos (A : Arith R) (start : Nat) (f : R) (k : Nat) : Int :=
  A.rhd (A.add (A.nat start) (A.mul (A.nat k) f))

/-- How many positions `pos(0), pos(1), …` are at most `n − 1` (R102): none when `start > n − 1`, and else
every `k` with `start + k·f <= n − 1/2`, since `ceil(x − 1/2) <= n − 1` says `x <= n − 1/2`. -/
def Arith.downsampleLen (A : Arith R) (n start : Nat) (f : R) : Nat :=
  if n ≤ start then 0
  else (A.floor (A.div (A.rat ((n : Rat) - (start : Rat) - 1 / 2)) f)).toNat + 1

/-- `downsample(d, start, f)`, for `f > 0` (R102, R103). -/
def Arith.downsample {α : Type} (A : Arith R) (zero : α) (d : List α) (start : Nat) (f : R) : List α :=
  (List.range (A.downsampleLen d.length start f)).map fun k => d.getD (A.pos start f k).toNat zero

/-- The candidate offsets with their variances, without the candidates whose downsampling is empty: those
score −∞ and are never the maximum (R105). -/
def Arith.candidates (A : Arith R) (d : List (Cx R)) (f : R) : List (Nat × R) :=
  (List.range (A.ceil f).toNat).filterMap fun p =>
    let y := A.downsample A.czero d p f
    if y.isEmpty then none else some (p, A.var y)

/-- `bestpoint(d, f)` (R105). Candidate 0 is never empty for a non-empty `d`, so a maximum exists. -/
def Arith.bestpoint (A : Arith R) (d : List (Cx R)) (f : R) : Nat :=
  (A.argmaxFirst (A.candidates d f)).getD 0

/-- The rule of DOWNSAMPLE (R101): the state with the destination written, or the error. -/
noncomputable def downsampleRule (s : State) (bd bs : BufId) : Except ErrCode State :=
  let d := s.buf bs
  let start := s.arg.start.toNat
  let f := s.arg.factor
  if !destinationOk bd [bs] then .error .errAlias
  else if d.isEmpty || !numArith.isPos f then .error .errArg
  else if Config.bufMax < numArith.downsampleLen d.length start f then .error .errRange
  else .ok (s.setBuf bd (numArith.downsample numArith.czero d start f))

/-- DOWNSAMPLE bd, bs (R101). -/
noncomputable def execDownsample (bd bs : BufId) (s : State) : Host.Outcome State Fault Refusal :=
  .next (s.complete (downsampleRule s bd bs))

/-- The rule of BESTPOINT (R104). -/
noncomputable def bestpointRule (s : State) (bs : BufId) : Except ErrCode State :=
  let d := s.buf bs
  let f := s.arg.factor
  if d.isEmpty || !numArith.isPos f then .error .errArg
  else if 2 ^ 32 - 1 < numArith.ceil f then .error .errRange
  else .ok (s.setI0 (wordOf (numArith.bestpoint d f)))

/-- BESTPOINT bs (R104). -/
noncomputable def execBestpoint (bs : BufId) (s : State) : Host.Outcome State Fault Refusal :=
  .next (s.complete (bestpointRule s bs))

end Sys2Proof.Machine
end

