-- ==== Sys2Proof/Machine/Sequence.lean ====
section
/-! DEFINITION. The sequence correlator: the functions `zc` and `sync`, and the commands ZCGEN and SYNC
(41_sequence_sync.md). -/

namespace Sys2Proof.Machine

variable {R : Type}

/-- `zc(u, L)`, the reference sequence (R122). -/
def Arith.zc (A : Arith R) (u L : Nat) : List (Cx R) :=
  (List.range L).map fun n =>
    A.cis (A.mul A.pi (A.rat (-((u * n * (n + L % 2) : Nat) : Rat) / (L : Rat))))

/-- The repeated reference (R125). -/
def Arith.reference (A : Arith R) (u L q : Nat) : List (Cx R) := repeatEach (A.zc u L) q

/-- The window of the rolling average (R124). -/
def coarseWindow (N : Nat) : Nat := N / 50

/-- `a[j]`, the mean magnitude of the `W` elements that end at `j` (R124). -/
def Arith.rolling (A : Arith R) (x : List (Cx R)) (W j : Nat) : R :=
  A.mul (A.div A.one (A.nat W)) (A.sumTo (fun i => A.cabs (A.elem x (j - i))) W)

/-- `coarse(x)`, for a sequence of 50 elements or more (R124). -/
def Arith.coarse (A : Arith R) (x : List (Cx R)) : Nat :=
  let W := coarseWindow x.length
  let averages := (List.range' (W - 1) (x.length + 1 - W)).map fun j => (j, A.rolling x W j)
  (A.argmaxFirst averages).getD 0 - W / 2

/-- `C[l]`, the modulus of the correlation at one lag (R126). -/
def Arith.correlation (A : Arith R) (w r : List (Cx R)) (l : Nat) : R :=
  A.cabs (A.csumTo (fun n => A.cmul (A.elem w (l + n)) (A.conj (A.elem r n))) r.length)

/-- `x[lo:hi)` (00_scope.md section 5). -/
def slice {α : Type} (x : List α) (lo hi : Nat) : List α := (x.drop lo).take (hi - lo)

/-- `sync(x, u, L, q)` (R124, R126, R127). -/
def Arith.sync (A : Arith R) (x : List (Cx R)) (u L q : Nat) : Nat × Nat :=
  let r := A.reference u L q
  let Lr := L * q
  let c := A.coarse x
  let lo := c - 2 * Lr
  let hi := min x.length (c + 2 * Lr)
  let w := slice x lo hi
  let scores := (List.range (hi - lo + 1 - Lr)).map fun l => (l, A.correlation w r l)
  let start := lo + (A.argmaxFirst scores).getD 0
  (start, start + Lr)

/-- The rule of ZCGEN (R121). -/
noncomputable def zcgenRule (s : State) (bd : BufId) : Except ErrCode State :=
  let u := s.cfg.sequenceRoot.toNat
  let L := s.cfg.sequenceLength.toNat
  let q := s.arg.repeats.toNat
  if !destinationOk bd [] then .error .errAlias
  else if L == 0 || q == 0 then .error .errArg
  else if Config.bufMax < L * q then .error .errRange
  else .ok (s.setBuf bd (numArith.reference u L q))

/-- ZCGEN bd (R121). -/
noncomputable def execZcgen (bd : BufId) (s : State) : Host.Outcome State Fault Refusal :=
  .next (s.complete (zcgenRule s bd))

/-- The rule of SYNC (R123). -/
noncomputable def syncRule (s : State) (bs : BufId) : Except ErrCode State :=
  let x := s.buf bs
  let u := s.cfg.sequenceRoot.toNat
  let L := s.cfg.sequenceLength.toNat
  let q := s.arg.repeats.toNat
  if L == 0 || q == 0 || decide (x.length < 50) || decide (x.length < L * q) then .error .errArg
  else
    let found := numArith.sync x u L q
    .ok ((s.setI0 (wordOf found.1)).setI1 (wordOf found.2))

/-- SYNC bs (R123). -/
noncomputable def execSync (bs : BufId) (s : State) : Host.Outcome State Fault Refusal :=
  .next (s.complete (syncRule s bs))

end Sys2Proof.Machine
end

