-- ==== Sys2Proof/Machine/Phase.lean ====
section
/-! DEFINITION. The subframe phase corrector: the functions `smooth`, `phnoise` and `phcorr`, and the
commands PHNOISE and PHCORR (43_phase_corrector.md). -/

namespace Sys2Proof.Machine

variable {R : Type}

/-- `smooth(φ, W)` (R172). -/
def Arith.smooth (A : Arith R) (φ : List R) (W : Nat) : List R :=
  if W ≤ 1 then φ
  else
    (List.range φ.length).map fun n =>
      A.mean (slice φ (n - (W - 1) / 2) (min (φ.length - 1) (n + W / 2) + 1))

/-- `phnoise(t, f, fs, W)` (R173). -/
def Arith.phnoise (A : Arith R) (t : List (Cx R)) (f fs : R) (W : Nat) : List R :=
  A.smooth (A.phasediff t f fs) W

/-- `phcorr(y, φ, start, f)` (R175). -/
def Arith.phcorr (A : Arith R) (y : List (Cx R)) (φ : List R) (start : Nat) (f : R) :
    Except ErrCode (List (Cx R)) :=
  let φd := A.downsample A.zero φ start f
  if φd.length < y.length then .error .errArg
  else .ok ((List.range y.length).map fun k => A.cmul (A.elem y k) (A.cis (A.neg (A.relem φd k))))

/-- The rule of PHNOISE (R171). -/
noncomputable def phnoiseRule (s : State) (bd bs : BufId) : Except ErrCode State :=
  let t := s.buf bs
  let f := s.arg.freq
  let fs := s.arg.rate
  let W := s.cfg.phaseFilterSize.toNat
  if !destinationOk bd [bs] then .error .errAlias
  else if t.isEmpty || !numArith.isPos fs then .error .errArg
  else .ok (s.setBuf bd (numArith.ofReals (numArith.phnoise t f fs W)))

/-- PHNOISE bd, bs (R171). -/
noncomputable def execPhnoise (bd bs : BufId) (s : State) : Host.Outcome State Fault Refusal :=
  .next (s.complete (phnoiseRule s bd bs))

/-- The rule of PHCORR (R174). -/
noncomputable def phcorrRule (s : State) (bd bs bt : BufId) : Except ErrCode State :=
  let y := s.buf bs
  let φ := reals (s.buf bt)
  let start := s.arg.start.toNat
  let f := s.arg.factor
  if !destinationOk bd [bs, bt] then .error .errAlias
  else if y.isEmpty || φ.isEmpty || !numArith.isPos f then .error .errArg
  else
    match numArith.phcorr y φ start f with
    | .error e => .error e
    | .ok z => .ok (s.setBuf bd z)

/-- PHCORR bd, bs, bt (R174). -/
noncomputable def execPhcorr (bd bs bt : BufId) (s : State) : Host.Outcome State Fault Refusal :=
  .next (s.complete (phcorrRule s bd bs bt))

end Sys2Proof.Machine
end

