-- ==== Sys2Proof/Machine/Pipeline.lean ====
section
/-! DEFINITION. The command RUN: the four pipeline variants (45_pipeline.md). The local variables of R201 are
arguments and results of these functions; none of them is state. -/

namespace Sys2Proof.Machine

variable {R : Type}

/-- The four variants (R202). -/
inductive Variant
  /-- Clock and local oscillator shared. -/
  | ss
  /-- Clock shared, local oscillator not shared. -/
  | su
  /-- Clock not shared, local oscillator shared. -/
  | us
  /-- Neither shared: the general variant. -/
  | uu
deriving DecidableEq, Repr

/-- Variant selection from CFG_CLOCK_SHARED and CFG_LO_SHARED (R202). -/
def variantOf (clockShared loShared : Bool) : Variant :=
  match clockShared, loShared with
  | true, true => .ss
  | true, false => .su
  | false, true => .us
  | false, false => .uu

/-- The variants whose subframe boundaries are computed a priori (R202, R213). -/
def Variant.aPriori : Variant → Bool
  | .ss => true
  | .su => true
  | .us => false
  | .uu => false

/-- Lsf, the subframe length in symbols (R212). -/
def subframeSymbols (cfg : CfgBank R) : Nat :=
  if cfg.processSubframes then cfg.subframeLength.toNat else cfg.numSymbols.toNat

/-- J, the number of subframes: `ceil(num_symbols / Lsf)` (R211). -/
def subframeCount (cfg : CfgBank R) : Nat :=
  (cfg.numSymbols.toNat + subframeSymbols cfg - 1) / subframeSymbols cfg

/-- `nsym_j`, the symbols allotted to subframe `j` (R211). -/
def allotted (cfg : CfgBank R) (j : Nat) : Nat :=
  min (subframeSymbols cfg) (cfg.numSymbols.toNat - j * subframeSymbols cfg)

/-- `check_schema` (R203). -/
def checkSchema (schema : Word) : Except ErrCode Unit :=
  if schema == 0#32 then .ok () else .error .errSchema

/-- `check_pilots(v)` (R204). -/
def checkPilots (v : Variant) (n : Nat) : Except ErrCode Unit :=
  match v with
  | .uu => if n == 2 then .ok () else .error .errPilots
  | _ => if 1 ≤ n then .ok () else .error .errPilots

/-- The first group of `check_operands(v)` (R205 item 1). -/
def Arith.operandsOk (A : Arith R) (v : Variant) (cfg : CfgBank R) (N : Nat) : Bool :=
  decide (50 ≤ N) && A.isPos cfg.adcRate && A.isPos cfg.symbolRate && A.isPos cfg.sequenceRate
    && decide (1 ≤ cfg.numSymbols.toNat) && decide (1 ≤ cfg.sequenceLength.toNat) && A.rollOffOk cfg.rollOff
    && decide (1 ≤ cfg.firSize.toNat) && A.isPos cfg.toneCutoff && A.le A.zero cfg.abortClockThreshold
    && (!cfg.processSubframes || decide (1 ≤ cfg.subframeLength.toNat))
    && (match v with
        | .us => !A.eq cfg.pilotFreq0 A.zero
        | .uu => A.isPos cfg.pilotFreq0 && A.lt cfg.pilotFreq0 cfg.pilotFreq1
        | _ => true)

/-- `check_operands(v)` (R205): answers the repeat factor q. -/
def Arith.checkOperands (A : Arith R) (v : Variant) (cfg : CfgBank R) (N : Nat) : Except ErrCode Nat :=
  if !A.operandsOk v cfg N then .error .errArg
  else
    let r := A.div cfg.adcRate cfg.sequenceRate
    if !A.eq (A.int (A.floor r)) r || A.lt r A.one then .error .errSeqFactor
    else
      let q := (A.floor r).toNat
      if N < cfg.sequenceLength.toNat * q then .error .errArg
      else if Config.maxSf < subframeCount cfg then .error .errRange
      else .ok q

/-- What stage 1 finds: the equivalent rate, the beat, and the observed pilots (R206). -/
structure Stage1 (R : Type) where
  equi : R
  fBeat : R
  obs0 : Option R
  obs1 : Option R

/-- `stage1(v, cap)`: beat and clock estimation (R206). -/
def Arith.stage1 (A : Arith R) (v : Variant) (cfg : CfgBank R) (zones : List (R × R)) (cap : List (Cx R)) :
    Except ErrCode (Stage1 R) :=
  match v with
  | .ss => .ok ⟨cfg.adcRate, A.zero, none, none⟩
  | .su =>
    match A.find1 cap cfg.adcRate zones with
    | .error e => .error e
    | .ok f => .ok ⟨cfg.adcRate, A.sub f cfg.pilotFreq0, some f, none⟩
  | .us =>
    match A.eqrate cap cfg.pilotFreq0 cfg.adcRate cfg.firSize.toNat cfg.toneCutoff with
    | .error e => .error e
    | .ok (r, Δf) => .ok ⟨r, A.zero, some (A.add cfg.pilotFreq0 Δf), none⟩
  | .uu =>
    match A.find2 cap cfg.adcRate zones (A.rat Config.guardBand) with
    | .error e => .error e
    | .ok (f1, f2) =>
      let equi := A.div (A.mul cfg.adcRate (A.sub cfg.pilotFreq1 cfg.pilotFreq0)) (A.sub f2 f1)
      .ok ⟨equi, A.sub (A.div (A.mul f1 equi) cfg.adcRate) cfg.pilotFreq0, some f1, some f2⟩

/-- The clock mismatch exceeds the threshold in a variant that estimates the clock (R207). -/
def Arith.clockAborts (A : Arith R) (v : Variant) (cfg : CfgBank R) (equi : R) : Bool :=
  !v.aPriori && A.isPos cfg.abortClockThreshold
    && A.lt cfg.abortClockThreshold (A.abs (A.sub equi cfg.adcRate))

/-- The fallback to the nominal rate (R207). -/
def Arith.nominal (A : Arith R) (v : Variant) (cfg : CfgBank R) (st : Stage1 R) : Stage1 R :=
  { st with
    equi := cfg.adcRate
    fBeat := match v, st.obs0 with
      | .uu, some f1 => A.sub f1 cfg.pilotFreq0
      | _, _ => st.fBeat }

/-- `clock_abort` with the two checks that follow it (R207): the rate and beat to use, and `aborted`. -/
def Arith.clockAbort (A : Arith R) (v : Variant) (cfg : CfgBank R) (st : Stage1 R) :
    Except ErrCode (Stage1 R × Bool) :=
  let aborted := A.clockAborts v cfg st.equi
  let used := if aborted then A.nominal v cfg st else st
  if !A.isPos used.equi then .error .errNumeric
  else if !A.lt cfg.toneCutoff (A.div used.equi (A.rat 2)) then .error .errArg
  else .ok (used, aborted)

/-- The beat-corrected capture with the sequence found in it (R208, R209). -/
structure Synced (R : Type) where
  fBeat : R
  x : List (Cx R)
  s : Nat
  e : Nat

/-- Beat correction and synchronisation (R208). -/
def Arith.syncStage (A : Arith R) (cfg : CfgBank R) (cap : List (Cx R)) (q : Nat) (equi fBeat : R) : Synced R :=
  let x := A.fshift cap fBeat equi
  let found := A.sync x cfg.sequenceRoot.toNat cfg.sequenceLength.toNat q
  ⟨fBeat, x, found.1, found.2⟩

/-- `second_pass`, variant UU only (R209). -/
def Arith.secondPass (A : Arith R) (cfg : CfgBank R) (zones : List (R × R)) (cap : List (Cx R)) (q : Nat)
    (equi : R) (sy : Synced R) : Except ErrCode (Synced R) :=
  let hi2 := min cap.length (sy.e + cfg.beatSampleCount.toNat)
  if hi2 - sy.e < 3 then .ok sy
  else
    match A.find2 (slice cap sy.e hi2) equi zones (A.rat Config.guardBand) with
    | .error e => .error e
    | .ok (g1, _) => .ok (A.syncStage cfg cap q equi (A.sub g1 cfg.pilotFreq0))

/-- Stage 2: synchronisation, with the second pass of the general variant (R208, R209). -/
def Arith.stage2 (A : Arith R) (v : Variant) (cfg : CfgBank R) (zones : List (R × R)) (cap : List (Cx R))
    (q : Nat) (st : Stage1 R) : Except ErrCode (Synced R) :=
  let sy := A.syncStage cfg cap q st.equi st.fBeat
  match v with
  | .uu => A.secondPass cfg zones cap q st.equi sy
  | _ => .ok sy

/-- What the subframe loop works on (R201). -/
structure Plan (R : Type) where
  v : Variant
  cfg : CfgBank R
  zones : List (R × R)
  x : List (Cx R)
  e : Nat
  dataEnd : Nat
  equi : R
  fBeat : R
  sps : R

/-- What one subframe delivers: corrected symbols, symbols before the correction, tone, and the shift
applied where the subframe was processed (R213, R217, R218, R225). -/
structure Subframe (R : Type) where
  z : List (Cx R)
  y : List (Cx R)
  t : List (Cx R)
  shift : Option R

/-- `data_end`, the end of the useful-data window (R210). -/
def Arith.dataEnd (A : Arith R) (cfg : CfgBank R) (N e : Nat) (sps : R) : Nat :=
  min N (e + (A.rhd (A.mul (A.nat cfg.numSymbols.toNat) sps)).toNat)

/-- `window(v, j, begin, nsym)`: the sample range of subframe `j` (R213). -/
def Arith.window (A : Arith R) (P : Plan R) (j begin : Nat) : Nat × Nat :=
  let b0 :=
    if P.v.aPriori then P.e + (A.rhd (A.mul (A.nat (j * subframeSymbols P.cfg)) P.sps)).toNat else begin
  let b := min b0 P.dataEnd
  (b, min P.dataEnd (b + (A.rhd (A.mul (A.nat (allotted P.cfg j)) P.sps)).toNat))

/-- `track(v, w)`: the observed pilot and the residual beat of a subframe (R214). -/
def Arith.track (A : Arith R) (P : Plan R) (w : List (Cx R)) : Except ErrCode (R × R) :=
  match P.v with
  | .uu =>
    match A.find2 w P.equi P.zones (A.rat Config.guardBand) with
    | .error e => .error e
    | .ok (fp, _) => .ok (fp, A.sub fp P.cfg.pilotFreq0)
  | .su =>
    match A.find1 w P.equi P.zones with
    | .error e => .error e
    | .ok fp => .ok (fp, A.sub fp P.cfg.pilotFreq0)
  | _ =>
    match A.find1 w P.equi P.zones with
    | .error e => .error e
    | .ok fp => .ok (fp, A.zero)

/-- The position of the symbol after the last recovered one (R221). -/
def Arith.advance (A : Arith R) (P : Plan R) (b p ny begin : Nat) : Nat :=
  if P.v.aPriori then begin
  else (A.rhd (A.add (A.nat (b + p)) (A.mul (A.nat ny) P.sps))).toNat

/-- Steps a to f of one subframe of at least 3 samples (R214 to R218), with the next `begin` (R221). -/
def Arith.processSubframe (A : Arith R) (P : Plan R) (b hi begin : Nat) : Except ErrCode (Subframe R × Nat) := do
  let w := slice P.x b hi
  let tracked ← A.track P w
  let fp := tracked.1
  let beat := tracked.2
  let t ← A.tone w fp P.equi P.cfg.firSize.toNat P.cfg.toneCutoff
  let φ := A.phnoise t (A.add P.cfg.pilotFreq0 beat) P.equi P.cfg.phaseFilterSize.toNat
  let d := A.fshift w (A.add P.cfg.frequencyShift beat) P.equi
  let m := A.mfilt d P.sps P.cfg.rollOff P.cfg.symbolRate P.equi
  let p := A.bestpoint m P.sps
  let y := A.downsample A.czero m p P.sps
  let z ← A.phcorr y φ p P.sps
  let shift := A.add (A.add P.cfg.frequencyShift P.fBeat) beat
  .ok (⟨z, y, t, some shift⟩, A.advance P b p y.length begin)

/-- One turn of the subframe loop (R213: a window of fewer than 3 samples produces no symbols). -/
def Arith.subframe (A : Arith R) (P : Plan R) (j begin : Nat) : Except ErrCode (Subframe R × Nat) :=
  let w := A.window P j begin
  if w.2 - w.1 < 3 then .ok (⟨[], [], [], none⟩, begin) else A.processSubframe P w.1 w.2 begin

/-- The subframe loop, in increasing `j` (R220): `n` subframes from `j` on. -/
def Arith.subframes (A : Arith R) (P : Plan R) : Nat → Nat → Nat → Except ErrCode (List (Subframe R))
  | 0, _, _ => .ok []
  | n + 1, j, begin =>
    match A.subframe P j begin with
    | .error e => .error e
    | .ok (sf, next) =>
      match A.subframes P n (j + 1) next with
      | .error e => .error e
      | .ok rest => .ok (sf :: rest)

/-- Everything that RUN computes (R219, R224 to R226). -/
structure RunOut (R : Type) where
  v : Variant
  frames : List (Subframe R)
  equi : R
  aborted : Bool
  fBeat : R
  obs0 : Option R
  obs1 : Option R
  s : Nat
  e : Nat
  dataEnd : Nat
  meanShift : R

/-- The mean of the shifts applied, over the subframes that were processed (R225). -/
def Arith.meanShift (A : Arith R) (cfg : CfgBank R) (fBeat : R) (frames : List (Subframe R)) : R :=
  let shifts := frames.filterMap Subframe.shift
  if shifts.isEmpty then A.add cfg.frequencyShift fBeat else A.mean shifts

/-- The three concatenations of R219. -/
def RunOut.symbols (o : RunOut R) : List (Cx R) := o.frames.flatMap Subframe.z
def RunOut.preSymbols (o : RunOut R) : List (Cx R) := o.frames.flatMap Subframe.y
def RunOut.tones (o : RunOut R) : List (Cx R) := o.frames.flatMap Subframe.t

/-- The length check on the three concatenations (R219; log 7). -/
def RunOut.checkLengths (o : RunOut R) : Except ErrCode (RunOut R) :=
  if Config.bufMax < o.symbols.length || Config.bufMax < o.preSymbols.length
      || Config.bufMax < o.tones.length then .error .errRange
  else .ok o

/-- RUN as a function of the capture, the configuration and the exclusion zones (R200). -/
def Arith.run (A : Arith R) (cfg : CfgBank R) (zones : List (R × R)) (cap : List (Cx R)) :
    Except ErrCode (RunOut R) := do
  let v := variantOf cfg.clockShared cfg.loShared
  checkSchema cfg.detectionSchema
  checkPilots v cfg.numPilots.toNat
  let q ← A.checkOperands v cfg cap.length
  let estimated ← A.stage1 v cfg zones cap
  let clock ← A.clockAbort v cfg estimated
  let st := clock.1
  let sy ← A.stage2 v cfg zones cap q st
  let sps := A.div st.equi cfg.symbolRate
  let dataEnd := A.dataEnd cfg cap.length sy.e sps
  let P : Plan R := ⟨v, cfg, zones, sy.x, sy.e, dataEnd, st.equi, sy.fBeat, sps⟩
  let frames ← A.subframes P (subframeCount cfg) 0 sy.e
  RunOut.checkLengths
    ⟨v, frames, st.equi, clock.2, sy.fBeat, st.obs0, st.obs1, sy.s, sy.e, dataEnd,
      A.meanShift cfg sy.fBeat frames⟩

/-- DBG_FIELDS of a variant: one bit per group of the record that the variant writes (R226). -/
def Variant.debugFields : Variant → Word
  | .ss => 0x43#32
  | .su => 0x57#32
  | .us => 0x47#32
  | .uu => 0x7F#32

/-- The scalar debug record (R226): a register whose bit in DBG_FIELDS is clear is 0. -/
def Arith.debugRecord (A : Arith R) (o : RunOut R) : DbgBank R where
  fields := o.v.debugFields
  seqStart := wordOf o.s
  seqEnd := wordOf o.e
  dataStart := wordOf o.e
  dataEnd := wordOf o.dataEnd
  fPilot0 := o.obs0.getD A.zero
  fPilot1 := o.obs1.getD A.zero
  fBeat := match o.v with
    | .su => o.fBeat
    | .uu => o.fBeat
    | _ => A.zero
  deltaF := match o.obs0, o.obs1 with
    | some f1, some f2 => A.sub f2 f1
    | _, _ => A.zero
  equiRate := o.equi

/-- The snapshot (R224). -/
def snapshotOf (cfg : CfgBank R) (o : RunOut R) : SnapBank R where
  symbolRate := cfg.symbolRate
  equiRate := o.equi
  rollOff := cfg.rollOff
  freqShift := o.meanShift
  schema := cfg.detectionSchema

/-- The debug record's destinations, written only when CFG_DEBUG = 1 (R219, R226). -/
noncomputable def State.writeDebug (s : State) (o : RunOut NUM) : State :=
  if s.cfg.debug then
    (({ s with
        dbg := numArith.debugRecord o
        dbgTlen := o.frames.map fun (f : Subframe NUM) => wordOf f.t.length }.setBuf BufId.dbgTone o.tones).setBuf
      BufId.dbgPre o.preSymbols)
  else s

/-- Everything that a successful RUN writes (R219, R222, R224, R226). -/
noncomputable def State.writeRun (s : State) (o : RunOut NUM) : State :=
  let short := decide (o.symbols.length < s.cfg.numSymbols.toNat)
  ({ s with
      status := s.status.runDone s.cfg.debug o.aborted short
      sfCount := wordOf o.frames.length
      sfLen := o.frames.map fun (f : Subframe NUM) => wordOf f.z.length
      snap := snapshotOf s.cfg o }.setBuf BufId.out o.symbols).writeDebug o

/-- The rule of RUN (R200). -/
noncomputable def runRule (s : State) : Except ErrCode State :=
  match numArith.run s.cfg s.zones (s.buf BufId.cap) with
  | .error e => .error e
  | .ok o => .ok (s.writeRun o)

/-- RUN (R200); on any error no destination is written (R227). -/
noncomputable def execRun (s : State) : Host.Outcome State Fault Refusal :=
  .next (s.complete (runRule s))

end Sys2Proof.Machine
end

