-- ==== Sys2Proof/Machine/Special.lean ====
section
/-! DEFINITION. The command SPECIAL: the calibration pipeline (46_special_dsp.md). -/

namespace Sys2Proof.Machine

variable {R : Type}

/-- De-shift, matched filter and downsampling from offset 0 of one calibration capture (R240). -/
def Arith.calibrate (A : Arith R) (snap : SnapBank R) (x : List (Cx R)) : List (Cx R) :=
  let sps := A.div snap.equiRate snap.symbolRate
  let d := A.fshift x snap.freqShift snap.equiRate
  let m := A.mfilt d sps snap.rollOff snap.symbolRate snap.equiRate
  A.downsample A.czero m 0 sps

/-- The number of symbols `calibrate` yields, known before it is computed (R102, R240). -/
def Arith.calibrateLen (A : Arith R) (snap : SnapBank R) (n : Nat) : Nat :=
  A.downsampleLen n 0 (A.div snap.equiRate snap.symbolRate)

/-- The rule of SPECIAL as a function of the two captures and the snapshot (R240, R242). -/
def Arith.special (A : Arith R) (snap : SnapBank R) (calE calES : List (Cx R)) :
    Except ErrCode (List (Cx R) × List (Cx R)) :=
  if !(snap.schema == 0#32) then .error .errSchema
  else if !A.isPos snap.symbolRate || !A.isPos snap.equiRate || !A.rollOffOk snap.rollOff then .error .errArg
  else if calE.isEmpty || calES.isEmpty then .error .errArg
  else if Config.bufMax < A.calibrateLen snap calE.length || Config.bufMax < A.calibrateLen snap calES.length then
    .error .errRange
  else .ok (A.calibrate snap calE, A.calibrate snap calES)

/-- The rule of SPECIAL (R240). It does not look at STATUS.SNAP_VALID (R241). -/
noncomputable def specialRule (s : State) : Except ErrCode State :=
  match numArith.special s.snap (s.buf BufId.calE) (s.buf BufId.calES) with
  | .error e => .error e
  | .ok y =>
    .ok (({ s with status := s.status.specialDone }.setBuf BufId.spoE y.1).setBuf BufId.spoES y.2)

/-- SPECIAL (R240). -/
noncomputable def execSpecial (s : State) : Host.Outcome State Fault Refusal :=
  .next (s.complete (specialRule s))

end Sys2Proof.Machine
end

