-- ==== Sys2Proof/Machine/System.lean ====
section
/-! DEFINITION. The system commands NOP, CLRERR and SRESET (47_system.md). -/

namespace Sys2Proof.Machine

/-- NOP (R250): the completion and nothing else. -/
def execNop (s : State) : Host.Outcome State Fault Refusal :=
  .next (s.complete (.ok s))

/-- CLRERR (R251): the acknowledgement of an error. -/
def execClrerr (s : State) : Host.Outcome State Fault Refusal :=
  .next (s.complete (.ok { s with status := s.status.acknowledged, errInfo := 0#32 }))

/-- SRESET (R252): exactly the reset state, so DONE is not set. -/
def execSreset (s : State) : Host.Outcome State Fault Refusal :=
  .next s.resetBlock

end Sys2Proof.Machine
end

