-- ==== Sys2Proof/Machine/Dispatch.lean ====
section
/-! DEFINITION. One arm per command: the meaning it calls. -/

namespace Sys2Proof.Machine

open Sys2Proof in noncomputable def exec (i : Instr) (s : State) : Host.Outcome State Fault Refusal :=
  match i with
  | .nop => Sys2Proof.Machine.execNop s
  | .clrerr => Sys2Proof.Machine.execClrerr s
  | .sreset => Sys2Proof.Machine.execSreset s
  | .downsample bd bs => Sys2Proof.Machine.execDownsample bd bs s
  | .bestpoint bs => Sys2Proof.Machine.execBestpoint bs s
  | .zcgen bd => Sys2Proof.Machine.execZcgen bd s
  | .sync bs => Sys2Proof.Machine.execSync bs s
  | .find1 bs => Sys2Proof.Machine.execFind1 bs s
  | .find2 bs => Sys2Proof.Machine.execFind2 bs s
  | .tone bd bs => Sys2Proof.Machine.execTone bd bs s
  | .eqrate bs => Sys2Proof.Machine.execEqrate bs s
  | .phnoise bd bs => Sys2Proof.Machine.execPhnoise bd bs s
  | .phcorr bd bs bt => Sys2Proof.Machine.execPhcorr bd bs bt s
  | .fshift bd bs => Sys2Proof.Machine.execFshift bd bs s
  | .mfilt bd bs => Sys2Proof.Machine.execMfilt bd bs s
  | .run => Sys2Proof.Machine.execRun s
  | .special => Sys2Proof.Machine.execSpecial s

end Sys2Proof.Machine
end

