-- ==== Sys2Proof/Machine/HostPort.lean ====
section
/-! DEFINITION. The host's side of the block: the register map (20_memory.md R71), reads and writes of
registers and buffers (R62 to R65), refused accesses (R68), and the events of the agenda (log 3). -/

namespace Sys2Proof.Machine

/-- The implemented registers (R71), under the names of 10_state.md R23 to R33. -/
inductive Reg
  | id | cmd | status | errCode | errInfo
  | argStart | argFactor | argFreq | argRate | argRepeat | argGuard
  | resI0 | resI1 | resN0 | resN1
  | cfgSymbolRate | cfgDacRate | cfgAdcRate | cfgNumSymbols | cfgRollOff | cfgFrequencyShift | cfgNumPilots
  | cfgPilotFreq0 | cfgPilotFreq1 | cfgSequenceRoot | cfgSequenceLength | cfgSequenceRate | cfgClockShared
  | cfgLoShared | cfgProcessSubframes | cfgSubframeLength | cfgFirSize | cfgToneCutoff
  | cfgAbortClockThreshold | cfgNumExcl | cfgPhaseFilterSize | cfgBeatSampleCount | cfgDetectionSchema
  | cfgDebug
  | snapSymbolRate | snapEquiRate | snapRollOff | snapFreqShift | snapSchema
  | dbgFields | dbgSeqStart | dbgSeqEnd | dbgDataStart | dbgDataEnd | dbgFPilot0 | dbgFPilot1 | dbgFBeat
  | dbgDeltaF | dbgEquiRate
  | sfCount
  | len (b : BufId)
  | exclLo (i : Fin Config.maxExcl)
  | exclHi (i : Fin Config.maxExcl)
  | sfLen (j : Fin Config.maxSf)
  | dbgTlen (j : Fin Config.maxSf)
deriving DecidableEq, Repr

/-- The number of a register (10_state.md R24 to R33). -/
def Reg.number : Reg → Nat
  | .id => 0x00 | .cmd => 0x01 | .status => 0x02 | .errCode => 0x03 | .errInfo => 0x04
  | .argStart => 0x10 | .argFactor => 0x11 | .argFreq => 0x12 | .argRate => 0x13 | .argRepeat => 0x14
  | .argGuard => 0x15
  | .resI0 => 0x20 | .resI1 => 0x21 | .resN0 => 0x22 | .resN1 => 0x23
  | .cfgSymbolRate => 0x40 | .cfgDacRate => 0x41 | .cfgAdcRate => 0x42 | .cfgNumSymbols => 0x43
  | .cfgRollOff => 0x44 | .cfgFrequencyShift => 0x45 | .cfgNumPilots => 0x46 | .cfgPilotFreq0 => 0x47
  | .cfgPilotFreq1 => 0x48 | .cfgSequenceRoot => 0x49 | .cfgSequenceLength => 0x4A
  | .cfgSequenceRate => 0x4B | .cfgClockShared => 0x4C | .cfgLoShared => 0x4D
  | .cfgProcessSubframes => 0x4E | .cfgSubframeLength => 0x4F | .cfgFirSize => 0x50
  | .cfgToneCutoff => 0x51 | .cfgAbortClockThreshold => 0x52 | .cfgNumExcl => 0x53
  | .cfgPhaseFilterSize => 0x54 | .cfgBeatSampleCount => 0x55 | .cfgDetectionSchema => 0x56
  | .cfgDebug => 0x57
  | .snapSymbolRate => 0x80 | .snapEquiRate => 0x81 | .snapRollOff => 0x82 | .snapFreqShift => 0x83
  | .snapSchema => 0x84
  | .dbgFields => 0x90 | .dbgSeqStart => 0x91 | .dbgSeqEnd => 0x92 | .dbgDataStart => 0x93
  | .dbgDataEnd => 0x94 | .dbgFPilot0 => 0x95 | .dbgFPilot1 => 0x96 | .dbgFBeat => 0x97
  | .dbgDeltaF => 0x98 | .dbgEquiRate => 0x99
  | .sfCount => 0xA0
  | .len b => 0xC0 + b.val
  | .exclLo i => 0x100 + 2 * i.val
  | .exclHi i => 0x101 + 2 * i.val
  | .sfLen j => 0x1000 + j.val
  | .dbgTlen j => 0x2000 + j.val

/-- The registers with a number of their own, in the order of the tables of 10_state.md. -/
def plainRegs : List Reg :=
  [ .id, .cmd, .status, .errCode, .errInfo,
    .argStart, .argFactor, .argFreq, .argRate, .argRepeat, .argGuard,
    .resI0, .resI1, .resN0, .resN1,
    .cfgSymbolRate, .cfgDacRate, .cfgAdcRate, .cfgNumSymbols, .cfgRollOff, .cfgFrequencyShift, .cfgNumPilots,
    .cfgPilotFreq0, .cfgPilotFreq1, .cfgSequenceRoot, .cfgSequenceLength, .cfgSequenceRate, .cfgClockShared,
    .cfgLoShared, .cfgProcessSubframes, .cfgSubframeLength, .cfgFirSize, .cfgToneCutoff,
    .cfgAbortClockThreshold, .cfgNumExcl, .cfgPhaseFilterSize, .cfgBeatSampleCount, .cfgDetectionSchema,
    .cfgDebug,
    .snapSymbolRate, .snapEquiRate, .snapRollOff, .snapFreqShift, .snapSchema,
    .dbgFields, .dbgSeqStart, .dbgSeqEnd, .dbgDataStart, .dbgDataEnd, .dbgFPilot0, .dbgFPilot1, .dbgFBeat,
    .dbgDeltaF, .dbgEquiRate,
    .sfCount ]

/-- The register at a number, where one is implemented (20_memory.md R71). -/
def regAt (n : Nat) : Option Reg :=
  if h : 0x2000 ≤ n ∧ n - 0x2000 < Config.maxSf then some (.dbgTlen ⟨n - 0x2000, h.2⟩)
  else if h : 0x1000 ≤ n ∧ n - 0x1000 < Config.maxSf then some (.sfLen ⟨n - 0x1000, h.2⟩)
  else if h : 0x100 ≤ n ∧ (n - 0x100) / 2 < Config.maxExcl then
    if n % 2 = 0 then some (.exclLo ⟨(n - 0x100) / 2, h.2⟩) else some (.exclHi ⟨(n - 0x100) / 2, h.2⟩)
  else if h : 0xC0 ≤ n ∧ n - 0xC0 < 12 then some (.len ⟨n - 0xC0, h.2⟩)
  else plainRegs.find? (fun r => r.number == n)

/-- Host access to a register (10_state.md, access column). -/
inductive Access
  | readWrite | readOnly | writeOnly
deriving DecidableEq, Repr

/-- The buffers that the host may write: CAP, CAL_E, CAL_ES and W0 to W3 (10_state.md R33, R40). -/
def BufId.hostWritable (b : BufId) : Bool := decide (b.val ≤ 6)

/-- The access column of the tables of 10_state.md R24 to R33. -/
def Reg.access : Reg → Access
  | .cmd => .writeOnly
  | .id | .status | .errCode | .errInfo => .readOnly
  | .resI0 | .resI1 | .resN0 | .resN1 => .readOnly
  | .dbgFields | .dbgSeqStart | .dbgSeqEnd | .dbgDataStart | .dbgDataEnd | .dbgFPilot0 | .dbgFPilot1
  | .dbgFBeat | .dbgDeltaF | .dbgEquiRate => .readOnly
  | .sfCount | .sfLen _ | .dbgTlen _ => .readOnly
  | .len b => if BufId.hostWritable b then .readWrite else .readOnly
  | _ => .readWrite

/-- The registers 0x00 to 0x04, which the host may read while a command runs (20_memory.md R64). -/
def Reg.readableWhileBusy : Reg → Bool
  | .id | .cmd | .status | .errCode | .errInfo => true
  | _ => false

/-- A BOOL register as the host reads it (10_state.md, register types). -/
def boolWord (b : Bool) : Word := if b then 1#32 else 0#32

/-- The value that a permitted read of a register returns (20_memory.md R64). -/
def Reg.read (s : State) : Reg → HostAnswer
  | .id => .word Config.idValue
  | .cmd => .word 0#32
  | .status => .word s.status.word
  | .errCode => .word s.errCode
  | .errInfo => .word s.errInfo
  | .argStart => .word s.arg.start
  | .argFactor => .num s.arg.factor
  | .argFreq => .num s.arg.freq
  | .argRate => .num s.arg.rate
  | .argRepeat => .word s.arg.repeats
  | .argGuard => .num s.arg.guard
  | .resI0 => .word s.res.i0
  | .resI1 => .word s.res.i1
  | .resN0 => .num s.res.n0
  | .resN1 => .num s.res.n1
  | .cfgSymbolRate => .num s.cfg.symbolRate
  | .cfgDacRate => .num s.cfg.dacRate
  | .cfgAdcRate => .num s.cfg.adcRate
  | .cfgNumSymbols => .word s.cfg.numSymbols
  | .cfgRollOff => .num s.cfg.rollOff
  | .cfgFrequencyShift => .num s.cfg.frequencyShift
  | .cfgNumPilots => .word s.cfg.numPilots
  | .cfgPilotFreq0 => .num s.cfg.pilotFreq0
  | .cfgPilotFreq1 => .num s.cfg.pilotFreq1
  | .cfgSequenceRoot => .word s.cfg.sequenceRoot
  | .cfgSequenceLength => .word s.cfg.sequenceLength
  | .cfgSequenceRate => .num s.cfg.sequenceRate
  | .cfgClockShared => .word (boolWord s.cfg.clockShared)
  | .cfgLoShared => .word (boolWord s.cfg.loShared)
  | .cfgProcessSubframes => .word (boolWord s.cfg.processSubframes)
  | .cfgSubframeLength => .word s.cfg.subframeLength
  | .cfgFirSize => .word s.cfg.firSize
  | .cfgToneCutoff => .num s.cfg.toneCutoff
  | .cfgAbortClockThreshold => .num s.cfg.abortClockThreshold
  | .cfgNumExcl => .word s.cfg.numExcl
  | .cfgPhaseFilterSize => .word s.cfg.phaseFilterSize
  | .cfgBeatSampleCount => .word s.cfg.beatSampleCount
  | .cfgDetectionSchema => .word s.cfg.detectionSchema
  | .cfgDebug => .word (boolWord s.cfg.debug)
  | .snapSymbolRate => .num s.snap.symbolRate
  | .snapEquiRate => .num s.snap.equiRate
  | .snapRollOff => .num s.snap.rollOff
  | .snapFreqShift => .num s.snap.freqShift
  | .snapSchema => .word s.snap.schema
  | .dbgFields => .word s.dbg.fields
  | .dbgSeqStart => .word s.dbg.seqStart
  | .dbgSeqEnd => .word s.dbg.seqEnd
  | .dbgDataStart => .word s.dbg.dataStart
  | .dbgDataEnd => .word s.dbg.dataEnd
  | .dbgFPilot0 => .num s.dbg.fPilot0
  | .dbgFPilot1 => .num s.dbg.fPilot1
  | .dbgFBeat => .num s.dbg.fBeat
  | .dbgDeltaF => .num s.dbg.deltaF
  | .dbgEquiRate => .num s.dbg.equiRate
  | .sfCount => .word s.sfCount
  | .len b => .word (s.lenWord b)
  | .exclLo i => .num (tableEntry s.exclLo i.val)
  | .exclHi i => .num (tableEntry s.exclHi i.val)
  | .sfLen j => .word (s.sfLen.getD j.val 0#32)
  | .dbgTlen j => .word (s.dbgTlen.getD j.val 0#32)

/-- The zero that a refused read of a register returns, in the register's type (R68; log 8). -/
def Reg.zero (r : Reg) : HostAnswer :=
  match r.read State.reset with
  | .num _ => .num (.rat 0)
  | _ => .word 0#32

/-- A refused access: nothing changes but HOSTVIOL (20_memory.md R68). -/
def State.refuse (s : State) : State := { s with status := s.status.violated }

/-- A permitted write of LEN[b] (10_state.md R33). -/
def State.writeLen (s : State) (b : BufId) (w : Word) : State :=
  if w.toNat ≤ Config.bufMax then s.setBuf b (resize (s.buf b) w.toNat) else s.refuse

/-- A write of a snapshot register also clears SNAP_VALID (10_state.md R30). -/
def State.writeSnap (s : State) (b : SnapBank NUM) : State :=
  { s with snap := b, status := s.status.snapTouched }

/-- A permitted register write (20_memory.md R65); `w` and `x` are what the two typed ports carry. A BOOL
register keeps bit 0. The last case holds the read-only registers, which no permitted write reaches. -/
def Reg.write (s : State) (w : Word) (x : NUM) : Reg → State
  | .cmd => s.launch w
  | .argStart => { s with arg := { s.arg with start := w } }
  | .argFactor => { s with arg := { s.arg with factor := x } }
  | .argFreq => { s with arg := { s.arg with freq := x } }
  | .argRate => { s with arg := { s.arg with rate := x } }
  | .argRepeat => { s with arg := { s.arg with repeats := w } }
  | .argGuard => { s with arg := { s.arg with guard := x } }
  | .cfgSymbolRate => { s with cfg := { s.cfg with symbolRate := x } }
  | .cfgDacRate => { s with cfg := { s.cfg with dacRate := x } }
  | .cfgAdcRate => { s with cfg := { s.cfg with adcRate := x } }
  | .cfgNumSymbols => { s with cfg := { s.cfg with numSymbols := w } }
  | .cfgRollOff => { s with cfg := { s.cfg with rollOff := x } }
  | .cfgFrequencyShift => { s with cfg := { s.cfg with frequencyShift := x } }
  | .cfgNumPilots => { s with cfg := { s.cfg with numPilots := w } }
  | .cfgPilotFreq0 => { s with cfg := { s.cfg with pilotFreq0 := x } }
  | .cfgPilotFreq1 => { s with cfg := { s.cfg with pilotFreq1 := x } }
  | .cfgSequenceRoot => { s with cfg := { s.cfg with sequenceRoot := w } }
  | .cfgSequenceLength => { s with cfg := { s.cfg with sequenceLength := w } }
  | .cfgSequenceRate => { s with cfg := { s.cfg with sequenceRate := x } }
  | .cfgClockShared => { s with cfg := { s.cfg with clockShared := w.getLsbD 0 } }
  | .cfgLoShared => { s with cfg := { s.cfg with loShared := w.getLsbD 0 } }
  | .cfgProcessSubframes => { s with cfg := { s.cfg with processSubframes := w.getLsbD 0 } }
  | .cfgSubframeLength => { s with cfg := { s.cfg with subframeLength := w } }
  | .cfgFirSize => { s with cfg := { s.cfg with firSize := w } }
  | .cfgToneCutoff => { s with cfg := { s.cfg with toneCutoff := x } }
  | .cfgAbortClockThreshold => { s with cfg := { s.cfg with abortClockThreshold := x } }
  | .cfgNumExcl => { s with cfg := { s.cfg with numExcl := w } }
  | .cfgPhaseFilterSize => { s with cfg := { s.cfg with phaseFilterSize := w } }
  | .cfgBeatSampleCount => { s with cfg := { s.cfg with beatSampleCount := w } }
  | .cfgDetectionSchema => { s with cfg := { s.cfg with detectionSchema := w } }
  | .cfgDebug => { s with cfg := { s.cfg with debug := w.getLsbD 0 } }
  | .snapSymbolRate => s.writeSnap { s.snap with symbolRate := x }
  | .snapEquiRate => s.writeSnap { s.snap with equiRate := x }
  | .snapRollOff => s.writeSnap { s.snap with rollOff := x }
  | .snapFreqShift => s.writeSnap { s.snap with freqShift := x }
  | .snapSchema => s.writeSnap { s.snap with schema := w }
  | .len b => s.writeLen b w
  | .exclLo i => { s with exclLo := tableSet s.exclLo i.val x }
  | .exclHi i => { s with exclHi := tableSet s.exclHi i.val x }
  | .id | .status | .errCode | .errInfo | .resI0 | .resI1 | .resN0 | .resN1 => s
  | .dbgFields | .dbgSeqStart | .dbgSeqEnd | .dbgDataStart | .dbgDataEnd | .dbgFPilot0 | .dbgFPilot1
  | .dbgFBeat | .dbgDeltaF | .dbgEquiRate => s
  | .sfCount | .sfLen _ | .dbgTlen _ => s

/-- `RegRead(n)` (20_memory.md R64). -/
def State.regRead (s : State) (n : Nat) : State :=
  match regAt n with
  | none => { s.refuse with answer := .word 0#32 }
  | some r =>
    if !s.status.busy || r.readableWhileBusy then { s with answer := r.read s }
    else { s.refuse with answer := r.zero }

/-- `RegWrite(n, v)` (20_memory.md R65). -/
def State.regWrite (s : State) (n : Nat) (w : Word) (x : NUM) : State :=
  match regAt n with
  | none => s.refuse
  | some r => if s.status.busy || r.access == .readOnly then s.refuse else r.write s w x

/-- What the 32-bit port of a register write carries when the host writes back the value it has read. -/
def HostAnswer.asWord : HostAnswer → Word
  | .word w => w
  | _ => 0#32

/-- What the NUM port carries when the host writes back the value it has read (log 8). -/
def HostAnswer.asNum : HostAnswer → NUM
  | .num x => x
  | _ => .rat 0

/-- `RegWrite(n, v)` with the value that the last read returned (30_encoding.md R91, MOV). -/
def State.regCopy (s : State) (n : Nat) : State := s.regWrite n s.answer.asWord s.answer.asNum

/-- `BufRead(b, i)` (20_memory.md R62). -/
def State.bufRead (s : State) (b i : Nat) : State :=
  match s.status.busy, s.mem.read b i with
  | false, some c => { s with answer := .elem c }
  | _, _ => { s.refuse with answer := .elem ⟨.rat 0, .rat 0⟩ }

/-- `BufWrite(b, i, v)` (20_memory.md R63). -/
def State.bufWrite (s : State) (b i : Nat) (v : Cx NUM) : State :=
  match bufferNumber b with
  | none => s.refuse
  | some c =>
    if s.status.busy || !BufId.hostWritable c || decide ((s.buf c).length ≤ i) then s.refuse
    else s.setBuf c ((s.buf c).set i v)

/-- One access of the host (00_scope.md R17, 20_memory.md R62 to R68). -/
def State.hostAccess (s : State) : HostAction → State
  | .regRead n => s.regRead n
  | .regWrite n w x => s.regWrite n w x
  | .regCopy n => s.regCopy n
  | .bufRead b i => s.bufRead b i
  | .bufWrite b i v => s.bufWrite b i v

/-- One poll of `WAIT` (30_encoding.md R91): a read of STATUS. While BUSY is 1 the wait goes on, and the block
has its turn before the next poll (log 3). -/
def State.poll (s : State) : State :=
  let t := s.regRead Reg.status.number
  if s.status.busy then { t with agenda := .blockTurn :: .wait :: s.agenda } else t

/-! The pseudo-instructions of 30_encoding.md R91 are lists of events. -/

/-- `SET reg, value` of a U32 or BOOL register. -/
def setWord (r : Reg) (w : Word) : List Event := [.host (.regWrite r.number w (.rat 0))]

/-- `SET reg, value` of a NUM register. -/
def setNum (r : Reg) (x : NUM) : List Event := [.host (.regWrite r.number 0#32 x)]

/-- `LOAD buf, [v0, …]`: the length, then the elements. -/
def loadBuf (b : BufId) (a : List (Cx NUM)) : List Event :=
  setWord (.len b) (wordOf a.length) ++
    (List.range a.length).map fun i => Event.host (.bufWrite b.val i (a.getD i ⟨.rat 0, .rat 0⟩))

/-- `MOV regA, regB`: the read of `regB`, then the write of the value read to `regA`. -/
def movReg (a b : Reg) : List Event := [.host (.regRead b.number), .host (.regCopy a.number)]

/-- A command line: the write of CMD and the implied `WAIT`. -/
def command (w : Word) : List Event := setWord .cmd w ++ [.wait]

end Sys2Proof.Machine
end

