-- ==== Sys2Proof/Machine/Step.lean ====
section
/-! DEFINITION. One step of the machine (log 3), and the placing of a command word (log 9). -/

namespace Sys2Proof.Machine

/-- The block's step (20_memory.md R67, 30_encoding.md R84): idle when BUSY = 0 (70_reset_and_hazards.md
R331); else the latched word is decoded and its command completes. A word that is no command completes with
ERR_ILLEGAL (R88). -/
noncomputable def blockStep (s : State) : Host.Outcome State Fault Refusal :=
  if s.status.busy then
    match decode s.latch with
    | .ok i => exec i s
    | .error _ => .next (s.fail .errIllegal)
  else .next s

/-- One step: the environment's next event, or the block's turn when the agenda is empty. -/
noncomputable def step (s : State) : Host.Outcome State Fault Refusal :=
  match s.agenda with
  | [] => blockStep s
  | .blockTurn :: rest => blockStep { s with agenda := rest }
  | .host a :: rest => .next ({ s with agenda := rest }.hostAccess a)
  | .wait :: rest => .next { s with agenda := rest }.poll
  | .reset :: rest => .next { s with agenda := rest }.resetBlock

/-- The state in which a command word has just been launched (20_memory.md R66) and the block's turn comes
next: what an accepted write of CMD leaves, with nothing else on the agenda (log 9). -/
def State.withFetchWord (s : State) (nbits w : Nat) : State :=
  { s with agenda := [] }.launch (BitVec.ofNat 32 (w % 2 ^ nbits))

end Sys2Proof.Machine
end

