-- ==== Sys2Proof/Machine/Reference.lean ====
section
/-! DEFINITION. The reference reading of the number domain (00_scope.md R13): the exact reals. `Arith.real`
is the arithmetic record of the reals, and the `toReal` functions read registers, buffers and results of the
machine as real numbers. Statements use them; no step of the machine does. -/

namespace Sys2Proof

/-- The complex number that a pair of reals is. -/
def Cx.toComplex (z : Cx ℝ) : ℂ := ⟨z.re, z.im⟩

/-- The pair of reals that a pair of terms stands for. -/
noncomputable def Cx.toReal (z : Cx NUM) : Cx ℝ := ⟨z.re.toReal, z.im.toReal⟩

namespace Machine

open Classical in
/-- The exact reals as an arithmetic record (R13). `atan2 y x` is the principal argument of `x + i·y`. -/
noncomputable def Arith.real : Arith ℝ where
  rat q := (q : ℝ)
  pi := Real.pi
  add := (· + ·)
  sub := (· - ·)
  mul := (· * ·)
  div := (· / ·)
  sqrt := Real.sqrt
  sin := Real.sin
  cos := Real.cos
  atan2 y x := Complex.arg ⟨x, y⟩
  lt a b := decide (a < b)
  floor x := ⌊x⌋

/-- The content of a buffer as real numbers. -/
noncomputable def valuesOf (x : List (Cx NUM)) : List (Cx ℝ) := x.map Cx.toReal

/-- A set of exclusion zones as real numbers. -/
noncomputable def zoneValues (zones : List (NUM × NUM)) : List (ℝ × ℝ) :=
  zones.map fun z => (z.1.toReal, z.2.toReal)

/-- The configuration bank as real numbers. -/
noncomputable def CfgBank.toReal (c : CfgBank NUM) : CfgBank ℝ where
  symbolRate := c.symbolRate.toReal
  dacRate := c.dacRate.toReal
  adcRate := c.adcRate.toReal
  numSymbols := c.numSymbols
  rollOff := c.rollOff.toReal
  frequencyShift := c.frequencyShift.toReal
  numPilots := c.numPilots
  pilotFreq0 := c.pilotFreq0.toReal
  pilotFreq1 := c.pilotFreq1.toReal
  sequenceRoot := c.sequenceRoot
  sequenceLength := c.sequenceLength
  sequenceRate := c.sequenceRate.toReal
  clockShared := c.clockShared
  loShared := c.loShared
  processSubframes := c.processSubframes
  subframeLength := c.subframeLength
  firSize := c.firSize
  toneCutoff := c.toneCutoff.toReal
  abortClockThreshold := c.abortClockThreshold.toReal
  numExcl := c.numExcl
  phaseFilterSize := c.phaseFilterSize
  beatSampleCount := c.beatSampleCount
  detectionSchema := c.detectionSchema
  debug := c.debug

/-- The snapshot bank as real numbers. -/
noncomputable def SnapBank.toReal (b : SnapBank NUM) : SnapBank ℝ :=
  ⟨b.symbolRate.toReal, b.equiRate.toReal, b.rollOff.toReal, b.freqShift.toReal, b.schema⟩

/-- What one subframe delivers, as real numbers. -/
noncomputable def Subframe.toReal (f : Subframe NUM) : Subframe ℝ :=
  ⟨valuesOf f.z, valuesOf f.y, valuesOf f.t, f.shift.map NUM.toReal⟩

/-- What RUN computes, as real numbers. -/
noncomputable def RunOut.toReal (o : RunOut NUM) : RunOut ℝ :=
  ⟨o.v, o.frames.map Subframe.toReal, o.equi.toReal, o.aborted, o.fBeat.toReal, o.obs0.map NUM.toReal,
    o.obs1.map NUM.toReal, o.s, o.e, o.dataEnd, o.meanShift.toReal⟩

end Machine

end Sys2Proof
end

