-- ==== Sys2Proof/Safety.lean ====
section
/-! DEFINITION. What a safe run of the block is: it never stops (70_reset_and_hazards.md R320), and every
state on it is consistent in the sense of the spec's own sentences on the flags, tables and buffers. Then the
terms that the statements use: outcomes spelled out field by field, and the formulas of the rules on the real
and complex numbers, written apart from the machine's own functions. -/

namespace Sys2Proof.Machine

/-- The spec's sentences on which states the block can be in. -/
structure State.Consistent (s : State) : Prop where
  /-- `0 <= LEN[b] <= BUF_MAX` (10_state.md R33). -/
  memory : s.mem.wf = true
  /-- DONE and ERR are cleared by a launch and set by a completion (R23, 20_memory.md R66, R67). -/
  busy_clear : s.status.busy = true → s.status.done = false ∧ s.status.err = false
  /-- A completion sets one of DONE and ERR (R67). -/
  done_or_err : ¬ (s.status.done = true ∧ s.status.err = true)
  /-- ERR is never set without the sticky record (60_exceptions.md R284). -/
  err_sticky : s.status.err = true → s.status.errSticky = true
  /-- Only the codes 0 to 8 occur (R280). -/
  err_code : s.errCode.toNat ≤ 8
  /-- ERRCODE is 0 after a success and is not 0 after a failure (R24, R280). -/
  err_code_err : s.status.err = true → s.errCode ≠ 0#32
  done_code : s.status.done = true → s.errCode = 0#32
  /-- The latched word exists while a command runs only (20_memory.md R67). -/
  latch_idle : s.status.busy = false → s.latch = 0#32
  /-- Without RESULT_VALID there is no result: OUT and the tables are empty (R227, 10_state.md R32). -/
  no_result : s.status.resultValid = false → s.buf BufId.out = [] ∧ s.sfCount = 0#32 ∧ s.sfLen = []
  /-- The flags that only a successful RUN sets stand with RESULT_VALID (10_state.md R23). -/
  run_flags : s.status.snapValid = true ∨ s.status.dbgValid = true ∨ s.status.clockAborted = true
      ∨ s.status.short = true → s.status.resultValid = true
  /-- Without DBG_VALID the debug record is empty (45_pipeline.md R226). -/
  no_debug : s.status.dbgValid = false →
      s.dbg = DbgBank.reset ∧ s.dbgTlen = [] ∧ s.buf BufId.dbgTone = [] ∧ s.buf BufId.dbgPre = []
  /-- Without SPECIAL_VALID the special outputs are empty (46_special_dsp.md R240). -/
  no_special : s.status.specialValid = false → s.buf BufId.spoE = [] ∧ s.buf BufId.spoES = []
  /-- While a RUN is latched, its valid flags are clear (20_memory.md R66). -/
  run_latched : s.status.busy = true → decode s.latch = .ok .run → s.status.resultValid = false
  /-- While a SPECIAL is latched, SPECIAL_VALID is clear (R66). -/
  special_latched : s.status.busy = true → decode s.latch = .ok .special → s.status.specialValid = false
  /-- `SF_LEN` has SF_COUNT entries; the others read 0 (10_state.md R32). -/
  table : s.sfLen.length = s.sfCount.toNat
  /-- SF_COUNT is at most MAX_SF (45_pipeline.md R205, R211). -/
  table_size : s.sfLen.length ≤ Config.maxSf
  /-- `DBG_TLEN` has no more entries than there are subframes (10_state.md R32). -/
  tone_table : s.dbgTlen.length ≤ s.sfLen.length
  /-- The exclusion-zone table has no more than MAX_EXCL entries, and is listed without zeros at its end
  (10_state.md R29; log 11). -/
  zone_table : ∀ t ∈ [s.exclLo, s.exclHi], t.length ≤ Config.maxExcl ∧ t.getLast? ≠ some (.rat 0)

/-- A run of `n` steps that meets no stop. -/
def runs (n : Nat) (s t : State) : Prop := Sys2Proof.core.run n s = .next t

/-- The bits of the STATUS register from bit 0 on; the bits after them read 0 (10_state.md R23). -/
def Status.bits (f : Status) : List Bool :=
  [f.busy, f.done, f.err, f.errSticky, f.resultValid, f.snapValid, f.dbgValid, f.specialValid, f.clockAborted,
    f.short, f.hostViol]

/-! Outcomes, spelled out. -/

/-- The completion without error of 20_memory.md R67, after the destinations were written. That the dropped word
leaves 0 in the field is the model's choice (log 4). -/
def State.finished (s : State) : State :=
  { s with status := { s.status with busy := false, done := true }, errCode := 0#32, latch := 0#32 }

/-- The failure update of 60_exceptions.md R284. That the dropped word leaves 0 in the field is the model's choice
(log 4). -/
def State.failedWith (s : State) (e : ErrCode) : State :=
  { s with
    status := { s.status with busy := false, err := true, errSticky := true }
    errCode := e.code
    errInfo := s.latch
    latch := 0#32 }

/-- `B[b] <- a`, said by what every element reads as. -/
def State.withBuf (s : State) (b : BufId) (a : List (Cx NUM)) : State := { s with mem := s.mem.set b a }

/-- The command words of R81 and R86, format by format, with buffer numbers below 12 (R88). -/
def legalWord (w : Word) : Prop :=
  (∃ op ∈ [0x00, 0x01, 0x02, 0x50, 0x51], w.toNat = op)
  ∨ (∃ op ∈ [0x11, 0x21, 0x30, 0x31, 0x33], ∃ bs < 12, w.toNat = op + bs * 2 ^ 12)
  ∨ (∃ bd < 12, w.toNat = 0x20 + bd * 2 ^ 8)
  ∨ (∃ op ∈ [0x10, 0x32, 0x34, 0x40, 0x41], ∃ bd < 12, ∃ bs < 12, w.toNat = op + bd * 2 ^ 8 + bs * 2 ^ 12)
  ∨ (∃ bd < 12, ∃ bs < 12, ∃ bt < 12, w.toNat = 0x35 + bd * 2 ^ 8 + bs * 2 ^ 12 + bt * 2 ^ 16)

/-- The buffers that a command may change: its destination, or the buffers R40 names for RUN and SPECIAL. -/
def mayWrite (i : Instr) (b : BufId) : Prop :=
  match i with
  | .nop | .clrerr => False
  | .sreset => True
  | .downsample bd _ | .zcgen bd | .tone bd _ | .phnoise bd _ | .phcorr bd _ _ | .fshift bd _ | .mfilt bd _ =>
    b = bd ∧ 3 ≤ bd.val ∧ bd.val ≤ 6
  | .bestpoint _ | .sync _ | .find1 _ | .find2 _ | .eqrate _ => False
  | .run => b = BufId.out ∨ b = BufId.dbgTone ∨ b = BufId.dbgPre
  | .special => b = BufId.spoE ∨ b = BufId.spoES

/-! The formulas of the rules, on sequences that are given by their elements: `x n` for `n` from 0 to `N − 1`,
and 0 outside (00_scope.md R10). -/

/-- The complex number that a buffer element stands for. -/
noncomputable def elemValue (z : Cx NUM) : ℂ := ⟨z.re.toReal, z.im.toReal⟩

/-- Element `n` of a sequence of terms as a complex number; 0 outside the sequence (R10). -/
noncomputable def sampleAt (x : List (Cx NUM)) (n : ℤ) : ℂ :=
  if 0 ≤ n then ((x[n.toNat]?).map elemValue).getD 0 else 0

/-- Element `n` of a sequence of pairs of reals as a complex number; 0 outside the sequence. -/
noncomputable def realSampleAt (x : List (Cx ℝ)) (n : ℤ) : ℂ :=
  if 0 ≤ n then ((x[n.toNat]?).map Cx.toComplex).getD 0 else 0

/-- The part `x[b:hi)` of a sequence (00_scope.md section 5). -/
noncomputable def cutOut (x : ℤ → ℂ) (b hi : ℕ) (n : ℤ) : ℂ := if 0 ≤ n ∧ n < (hi : ℤ) - b then x (b + n) else 0

/-- `exp(i·t)` (R8). -/
noncomputable def cisOf (t : ℝ) : ℂ := Complex.exp (t * Complex.I)

/-! The resampler. -/

/-- `pos(k) = rhd(start + k·f) = ceil(start + k·f − 1/2)` (40_resampler.md R102, 00_scope.md R5). -/
noncomputable def posOf (start : ℕ) (f : ℝ) (k : ℕ) : ℤ := ⌈(start : ℝ) + k * f - 1 / 2⌉

/-- The `k` with `pos(k) <= N − 1`, for `f > 0` (R102). Every such `k` is at most `N/f`. -/
noncomputable def positionsOf (N start : ℕ) (f : ℝ) : Finset ℕ :=
  (Finset.range (⌈(N : ℝ) / f⌉₊ + 1)).filter fun k => posOf start f k ≤ (N : ℤ) - 1

/-- The population variance (00_scope.md R7) of the candidate with offset `p` (40_resampler.md R105). -/
noncomputable def varianceAt (N : ℕ) (x : ℤ → ℂ) (f : ℝ) (p : ℕ) : ℝ :=
  let K := positionsOf N p f
  let m := (∑ k ∈ K, x (posOf p f k)) / (K.card : ℂ)
  (∑ k ∈ K, ‖x (posOf p f k) - m‖ ^ 2) / (K.card : ℝ)

/-- `p = bestpoint(x, f)` (R105): the least offset of greatest variance among the offsets below `ceil(f)` whose
downsampling is not empty, which are those below `N`. -/
def IsBestpoint (N : ℕ) (x : ℤ → ℂ) (f : ℝ) (p : ℕ) : Prop :=
  (p : ℤ) < ⌈f⌉ ∧ p < N ∧ ∀ p' : ℕ, (p' : ℤ) < ⌈f⌉ → p' < N →
    varianceAt N x f p' ≤ varianceAt N x f p ∧ (p' < p → varianceAt N x f p' < varianceAt N x f p)

/-! The sequence correlator. -/

/-- The Zadoff-Chu sequence of 41_sequence_sync.md R122. -/
noncomputable def zcOf (u L n : ℕ) : ℂ := cisOf (-(Real.pi * u * n * (n + (L % 2 : ℕ))) / L)

/-- `st` is the start that `sync(x, u, L, q)` finds (R124 to R127): coarse localisation by the first maximum of
the trailing mean magnitude, then the first maximum of the correlation's modulus in the window. -/
def IsSync (N : ℕ) (x : ℤ → ℂ) (u L q st : ℕ) : Prop :=
  let W := N / 50
  let a := fun j : ℕ => 1 / (W : ℝ) * ∑ i ∈ Finset.range W, ‖x ((j : ℤ) - i)‖
  let Lr := L * q
  ∃ js c lo hi ls : ℕ,
    (W - 1 ≤ js ∧ js < N ∧ ∀ j : ℕ, W - 1 ≤ j → j < N → a j ≤ a js ∧ (j < js → a j < a js))
    ∧ (c : ℤ) = max 0 ((js : ℤ) - (W / 2 : ℕ))
    ∧ (lo : ℤ) = max 0 ((c : ℤ) - 2 * Lr) ∧ hi = min N (c + 2 * Lr)
    ∧ (let C := fun l : ℕ =>
        ‖∑ n ∈ Finset.range Lr, x (lo + l + n) * (starRingEnd ℂ) (zcOf u L (n / q))‖
      ls + Lr ≤ hi - lo ∧ ∀ l : ℕ, l + Lr ≤ hi - lo → C l ≤ C ls ∧ (l < ls → C l < C ls))
    ∧ st = lo + ls ∧ st + Lr ≤ N

/-! The pilot-tone extractor. -/

/-- `|X[k]|`, the modulus of a bin of the discrete Fourier transform (00_scope.md R11). -/
noncomputable def binMagnitude (N : ℕ) (x : ℤ → ℂ) (k : ℕ) : ℝ :=
  ‖∑ n ∈ Finset.range N, x n * cisOf (-(2 * Real.pi * k * n) / N)‖

/-- Bin `k` is a positive bin and its frequency lies in no zone (42_pilot_tone.md R141, R143). -/
def AdmittedBin (N : ℕ) (rate : ℝ) (zones : List (ℝ × ℝ)) (k : ℕ) : Prop :=
  1 ≤ k ∧ k < (N + 1) / 2 ∧ ∀ z ∈ zones, ¬ (z.1 ≤ k * rate / N ∧ k * rate / N ≤ z.2)

/-- `f = find1(x, rate, zones)` (R143): the frequency of the least admitted bin of greatest modulus. -/
def IsPilot (N : ℕ) (x : ℤ → ℂ) (rate : ℝ) (zones : List (ℝ × ℝ)) (f : ℝ) : Prop :=
  ∃ ks : ℕ, AdmittedBin N rate zones ks
    ∧ (∀ k : ℕ, AdmittedBin N rate zones k →
      binMagnitude N x k ≤ binMagnitude N x ks ∧ (k < ks → binMagnitude N x k < binMagnitude N x ks))
    ∧ f = ks * rate / N

/-- `(f1, f2) = find2(x, rate, zones, G)` (R145): a second search with the guard band around the first pilot
excluded as well, the two in rising order. -/
def IsPilotPair (N : ℕ) (x : ℤ → ℂ) (rate : ℝ) (zones : List (ℝ × ℝ)) (G f1 f2 : ℝ) : Prop :=
  ∃ fa fb : ℝ, IsPilot N x rate zones fa ∧ IsPilot N x rate ((fa - G, fa + G) :: zones) fb
    ∧ f1 = min fa fb ∧ f2 = max fa fb

/-- A search for one pilot has no bin (R143). -/
def NoPilot (N : ℕ) (rate : ℝ) (zones : List (ℝ × ℝ)) : Prop := ¬ ∃ k : ℕ, AdmittedBin N rate zones k

/-- One of the two searches for a pair of pilots has no bin (R145). -/
def NoPilotPair (N : ℕ) (x : ℤ → ℂ) (rate : ℝ) (zones : List (ℝ × ℝ)) (G : ℝ) : Prop :=
  NoPilot N rate zones
  ∨ ∃ fa : ℝ, IsPilot N x rate zones fa ∧ NoPilot N rate ((fa - G, fa + G) :: zones)

/-- `sinc` of R146. -/
noncomputable def sincOf (t : ℝ) : ℝ := if t = 0 then 1 else Real.sin (Real.pi * t) / (Real.pi * t)

/-- `g[n] = s[n]·win[n]` of the low-pass design of R146. -/
noncomputable def designTap (T : ℕ) (fc fs : ℝ) (n : ℕ) : ℝ :=
  (2 * fc / fs * sincOf (2 * fc * ((n : ℝ) - ((T : ℝ) - 1) / 2) / fs))
    * (if T = 1 then 1 else 0.54 - 0.46 * Real.cos (2 * Real.pi * n / ((T : ℝ) - 1)))

/-- The sum of the taps, by which R146 divides. -/
noncomputable def designSum (T : ℕ) (fc fs : ℝ) : ℝ := ∑ j ∈ Finset.range T, designTap T fc fs j

/-- The taps of the tone filter of R147. -/
noncomputable def toneTapOf (T : ℕ) (fc fs f0 : ℝ) (k : ℕ) : ℂ :=
  ((designTap T fc fs k / designSum T fc fs : ℝ) : ℂ)
    * cisOf (2 * Real.pi * f0 * ((k : ℝ) - ((T - 1) / 2 : ℕ)) / fs)

/-- `tone(x, f0, fs, T, fc)[n]` (R147, 00_scope.md R10). -/
noncomputable def toneOf (T : ℕ) (fc fs f0 : ℝ) (x : ℤ → ℂ) (n : ℤ) : ℂ :=
  ∑ k ∈ Finset.range T, toneTapOf T fc fs f0 k * x (n + ((T - 1) / 2 : ℕ) - k)

/-- One step of the unwrapping (00_scope.md R9). -/
noncomputable def wstepOf (d : ℝ) : ℝ :=
  if |d| ≤ Real.pi then d
  else if 0 < d then |d| - 2 * Real.pi * ⌈(|d| - Real.pi) / (2 * Real.pi)⌉
  else -(|d| - 2 * Real.pi * ⌈(|d| - Real.pi) / (2 * Real.pi)⌉)

/-- `unwrap(p)` (R9). -/
noncomputable def unwrapOf (p : ℕ → ℝ) : ℕ → ℝ
  | 0 => p 0
  | n + 1 => unwrapOf p n + wstepOf (p (n + 1) - p n)

/-- `phasediff(t, f, fs)[n]` (42_pilot_tone.md R150): the unwrapped difference of the phase of the tone and the
phase of the ideal tone. -/
noncomputable def phasediffOf (t : ℤ → ℂ) (f fs : ℝ) : ℕ → ℝ :=
  unwrapOf fun n => Complex.arg (t n) - Complex.arg (cisOf (2 * Real.pi * f * n / fs))

/-- `slope(t, y)` of `N` points (00_scope.md R12). -/
noncomputable def slopeOf (N : ℕ) (t y : ℕ → ℝ) : ℝ :=
  let mt := (∑ n ∈ Finset.range N, t n) / N
  let my := (∑ n ∈ Finset.range N, y n) / N
  (∑ n ∈ Finset.range N, (t n - mt) * (y n - my)) / ∑ n ∈ Finset.range N, (t n - mt) ^ 2

/-- `Δf`, the residual of `eqrate(x, f, fs, T, fc)` (42_pilot_tone.md R151). -/
noncomputable def residualOf (N : ℕ) (x : ℤ → ℂ) (f fs : ℝ) (T : ℕ) (fc : ℝ) : ℝ :=
  slopeOf N (fun n => n / fs) (phasediffOf (toneOf T fc fs f x) f fs) / (2 * Real.pi)

/-! The phase corrector, the de-shift and the matched filter. -/

/-- `smooth(φ, W)[n]` of a sequence of length `N` (43_phase_corrector.md R172). -/
noncomputable def smoothOf (N W : ℕ) (φ : ℕ → ℝ) (n : ℕ) : ℝ :=
  if W ≤ 1 then φ n
  else (∑ j ∈ Finset.Icc (n - (W - 1) / 2) (min (N - 1) (n + W / 2)), φ j)
    / (min (N - 1) (n + W / 2) + 1 - (n - (W - 1) / 2) : ℕ)

/-- `fshift(x, f, fs)[n]` (44_filter.md R185). -/
noncomputable def shiftedBy (x : ℤ → ℂ) (f fs : ℝ) (n : ℤ) : ℂ := x n * cisOf (-(2 * Real.pi * f * n) / fs)

/-- `g(u)`, the root-raised-cosine impulse response of R187. -/
noncomputable def rrcOf (β u : ℝ) : ℝ :=
  if u = 0 then 1 - β + 4 * β / Real.pi
  else if 0 < β ∧ |u| = 1 / (4 * β) then
    β / Real.sqrt 2 * ((1 + 2 / Real.pi) * Real.sin (Real.pi / (4 * β))
      + (1 - 2 / Real.pi) * Real.cos (Real.pi / (4 * β)))
  else
    (Real.sin (Real.pi * u * (1 - β)) + 4 * β * u * Real.cos (Real.pi * u * (1 + β)))
      / (Real.pi * u * (1 - (4 * β * u) ^ 2))

/-- `mfilt(x, sps, β, Rs, fs)[n]` (R191, R189, 00_scope.md R10). -/
noncomputable def filteredBy (sps β Rs fs : ℝ) (x : ℤ → ℂ) (n : ℤ) : ℂ :=
  (1 / Real.sqrt sps : ℝ) * ∑ k ∈ Finset.range ⌊10 * sps + 2⌋₊,
    (rrcOf β (((k : ℝ) - ((⌊10 * sps + 2⌋₊ - 1) / 2 : ℕ)) / (fs * (1 / Rs))) : ℂ)
      * x (n + ((⌊10 * sps + 2⌋₊ - 1) / 2 : ℕ) - k)

/-! RUN. -/

/-- J, the number of subframes (45_pipeline.md R211, R212). -/
noncomputable def planCount (cfg : CfgBank ℝ) : ℕ :=
  if cfg.processSubframes then ⌈(cfg.numSymbols.toNat : ℚ) / cfg.subframeLength.toNat⌉₊ else 1

/-- The number of pilots that `check_pilots` asks for (R204). -/
def PilotsOk (cfg : CfgBank ℝ) : Prop :=
  if cfg.clockShared = false ∧ cfg.loShared = false then cfg.numPilots = 2#32 else cfg.numPilots ≠ 0#32

/-- The conditions of the first group of `check_operands` (R205 item 1). -/
def OperandsOk (cfg : CfgBank ℝ) (N : ℕ) : Prop :=
  50 ≤ N ∧ 0 < cfg.adcRate ∧ 0 < cfg.symbolRate ∧ 0 < cfg.sequenceRate ∧ cfg.numSymbols ≠ 0#32
  ∧ cfg.sequenceLength ≠ 0#32 ∧ 0 ≤ cfg.rollOff ∧ cfg.rollOff ≤ 1 ∧ cfg.firSize ≠ 0#32 ∧ 0 < cfg.toneCutoff
  ∧ 0 ≤ cfg.abortClockThreshold ∧ (cfg.processSubframes = true → cfg.subframeLength ≠ 0#32)
  ∧ (cfg.clockShared = false → cfg.loShared = true → cfg.pilotFreq0 ≠ 0)
  ∧ (cfg.clockShared = false → cfg.loShared = false → 0 < cfg.pilotFreq0 ∧ cfg.pilotFreq0 < cfg.pilotFreq1)

/-- The ratio of the capture rate to the rate of the sequence is the integer `q >= 1` (R205 item 2). -/
def IsRepeatFactor (cfg : CfgBank ℝ) (q : ℕ) : Prop := 1 ≤ q ∧ cfg.adcRate / cfg.sequenceRate = q

/-- Every entry check of RUN passes, with the repeat factor `q` (R203, R204, R205). -/
def EntryOk (cfg : CfgBank ℝ) (N q : ℕ) : Prop :=
  cfg.detectionSchema = 0#32 ∧ PilotsOk cfg ∧ OperandsOk cfg N ∧ IsRepeatFactor cfg q
  ∧ cfg.sequenceLength.toNat * q ≤ N ∧ planCount cfg ≤ Config.maxSf

/-- The result of stage 1 on a capture of `N` samples (R206): the equivalent rate, the beat, and the pilots
observed. -/
def IsStage1 (cfg : CfgBank ℝ) (zones : List (ℝ × ℝ)) (N : ℕ) (x : ℤ → ℂ) (equi beat : ℝ)
    (obs0 obs1 : Option ℝ) : Prop :=
  match cfg.clockShared, cfg.loShared with
  | true, true => equi = cfg.adcRate ∧ beat = 0 ∧ obs0 = none ∧ obs1 = none
  | true, false =>
    ∃ f : ℝ, IsPilot N x cfg.adcRate zones f
      ∧ equi = cfg.adcRate ∧ beat = f - cfg.pilotFreq0 ∧ obs0 = some f ∧ obs1 = none
  | false, true =>
    let Δf := residualOf N x cfg.pilotFreq0 cfg.adcRate cfg.firSize.toNat cfg.toneCutoff
    cfg.toneCutoff < cfg.adcRate / 2 ∧ designSum cfg.firSize.toNat cfg.toneCutoff cfg.adcRate ≠ 0
      ∧ cfg.pilotFreq0 + Δf ≠ 0 ∧ equi = cfg.adcRate / ((cfg.pilotFreq0 + Δf) / cfg.pilotFreq0) ∧ beat = 0
      ∧ obs0 = some (cfg.pilotFreq0 + Δf) ∧ obs1 = none
  | false, false =>
    ∃ f1 f2 : ℝ, IsPilotPair N x cfg.adcRate zones 5000000 f1 f2
      ∧ equi = cfg.adcRate * (cfg.pilotFreq1 - cfg.pilotFreq0) / (f2 - f1)
      ∧ beat = f1 * equi / cfg.adcRate - cfg.pilotFreq0 ∧ obs0 = some f1 ∧ obs1 = some f2

/-- Stage 1 of RUN ends with the error `err` (R206): no pilot in the capture, or the equivalent-rate estimate fails
(42_pilot_tone.md R146, R147, R151). -/
def Stage1Stops (cfg : CfgBank ℝ) (zones : List (ℝ × ℝ)) (N : ℕ) (x : ℤ → ℂ) (err : ErrCode) : Prop :=
  match cfg.clockShared, cfg.loShared with
  | true, true => False
  | true, false => NoPilot N cfg.adcRate zones ∧ err = .errArg
  | false, true =>
    let Δf := residualOf N x cfg.pilotFreq0 cfg.adcRate cfg.firSize.toNat cfg.toneCutoff
    let total := designSum cfg.firSize.toNat cfg.toneCutoff cfg.adcRate
    (cfg.adcRate / 2 ≤ cfg.toneCutoff ∧ err = .errArg)
    ∨ (cfg.toneCutoff < cfg.adcRate / 2 ∧ (total = 0 ∨ cfg.pilotFreq0 + Δf = 0) ∧ err = .errNumeric)
  | false, false => NoPilotPair N x cfg.adcRate zones 5000000 ∧ err = .errArg

/-- The clock abort applies to the estimated rate (R207). -/
def ClockAborts (cfg : CfgBank ℝ) (equi : ℝ) : Prop :=
  cfg.clockShared = false ∧ 0 < cfg.abortClockThreshold ∧ cfg.abortClockThreshold < |equi - cfg.adcRate|

/-- From the rate and beat of stage 1 to those that the clock abort leaves (R207). -/
def IsRate (cfg : CfgBank ℝ) (equi0 beat0 : ℝ) (obs0 : Option ℝ) (equi beat : ℝ) : Prop :=
  (¬ ClockAborts cfg equi0 → equi = equi0 ∧ beat = beat0)
  ∧ (ClockAborts cfg equi0 → equi = cfg.adcRate
    ∧ (cfg.loShared = true → beat = beat0)
    ∧ (cfg.loShared = false → ∃ f1, obs0 = some f1 ∧ beat = f1 - cfg.pilotFreq0))

/-- The rate and beat that RUN goes on with: those of the clock abort, with the two checks behind it passed (R207). -/
def IsClock (cfg : CfgBank ℝ) (equi0 beat0 : ℝ) (obs0 : Option ℝ) (equi beat : ℝ) : Prop :=
  IsRate cfg equi0 beat0 obs0 equi beat ∧ 0 < equi ∧ cfg.toneCutoff < equi / 2

/-- The synchronisation, with the second pass of variant UU (R208, R209): the final beat and the start of the
sequence. -/
def IsStage2 (cfg : CfgBank ℝ) (zones : List (ℝ × ℝ)) (N : ℕ) (x : ℤ → ℂ) (q : ℕ) (equi beat fBeat : ℝ)
    (st : ℕ) : Prop :=
  let u := cfg.sequenceRoot.toNat
  let L := cfg.sequenceLength.toNat
  ∃ st1 : ℕ, IsSync N (shiftedBy x beat equi) u L q st1
    ∧ (let e1 := st1 + L * q
      let hi2 := min N (e1 + cfg.beatSampleCount.toNat)
      let second := cfg.clockShared = false ∧ cfg.loShared = false ∧ 3 ≤ hi2 - e1
      (¬ second → fBeat = beat ∧ st = st1)
      ∧ (second → ∃ g1 g2 : ℝ, IsPilotPair (hi2 - e1) (cutOut x e1 hi2) equi zones 5000000 g1 g2
        ∧ fBeat = g1 - cfg.pilotFreq0 ∧ IsSync N (shiftedBy x fBeat equi) u L q st))

/-- The second pass of variant UU ends with ERR_ARG: no pair of pilots behind the sequence (R209). -/
def Stage2Stops (cfg : CfgBank ℝ) (zones : List (ℝ × ℝ)) (N : ℕ) (x : ℤ → ℂ) (q : ℕ) (equi beat : ℝ) : Prop :=
  cfg.clockShared = false ∧ cfg.loShared = false
  ∧ ∃ st1 : ℕ, IsSync N (shiftedBy x beat equi) cfg.sequenceRoot.toNat cfg.sequenceLength.toNat q st1
    ∧ (let e1 := st1 + cfg.sequenceLength.toNat * q
      let hi2 := min N (e1 + cfg.beatSampleCount.toNat)
      3 ≤ hi2 - e1 ∧ NoPilotPair (hi2 - e1) (cutOut x e1 hi2) equi zones 5000000)

/-- `data_end` (R210). -/
noncomputable def dataEndOf (cfg : CfgBank ℝ) (N e : ℕ) (equi : ℝ) : ℕ :=
  min N (e + ⌈cfg.numSymbols.toNat * (equi / cfg.symbolRate) - 1 / 2⌉₊)

/-- The tracking of one window of `m` samples (R214): the observed pilot and the residual beat. -/
def IsTracked (cfg : CfgBank ℝ) (zones : List (ℝ × ℝ)) (equi : ℝ) (m : ℕ) (w : ℤ → ℂ) (fp beat : ℝ) : Prop :=
  match cfg.clockShared, cfg.loShared with
  | false, false => (∃ f2, IsPilotPair m w equi zones 5000000 fp f2) ∧ beat = fp - cfg.pilotFreq0
  | true, false => IsPilot m w equi zones fp ∧ beat = fp - cfg.pilotFreq0
  | _, true => IsPilot m w equi zones fp ∧ beat = 0

/-- No pilot can be tracked in one window of `m` samples (R214). -/
def Untracked (cfg : CfgBank ℝ) (zones : List (ℝ × ℝ)) (equi : ℝ) (m : ℕ) (w : ℤ → ℂ) : Prop :=
  if cfg.clockShared = false ∧ cfg.loShared = false then NoPilotPair m w equi zones 5000000
  else NoPilot m equi zones

/-- Steps b to f of one window of `m` samples (R215 to R218): tone, symbols before the correction, and symbols. -/
def IsChain (cfg : CfgBank ℝ) (equi : ℝ) (m : ℕ) (w : ℤ → ℂ) (fp beat : ℝ) (p : ℕ) (f : Subframe ℝ) : Prop :=
  let sps := equi / cfg.symbolRate
  let t := toneOf cfg.firSize.toNat cfg.toneCutoff equi fp w
  let φ := smoothOf m cfg.phaseFilterSize.toNat (phasediffOf t (cfg.pilotFreq0 + beat) equi)
  let filtered := filteredBy sps cfg.rollOff cfg.symbolRate equi
    (shiftedBy w (cfg.frequencyShift + beat) equi)
  designSum cfg.firSize.toNat cfg.toneCutoff equi ≠ 0
  ∧ f.t.length = m ∧ (∀ n : ℕ, n < m → realSampleAt f.t n = t n)
  ∧ IsBestpoint m filtered sps p
  ∧ f.y.length = (positionsOf m p sps).card
  ∧ (∀ k : ℕ, k < f.y.length → realSampleAt f.y k = filtered (posOf p sps k))
  ∧ f.z.length = f.y.length
  ∧ ∀ k : ℕ, k < f.y.length → realSampleAt f.z k = realSampleAt f.y k * cisOf (-φ (posOf p sps k).toNat)

/-- The sample range `[b, hi)` of subframe `j`, with the sample cursor before it (R211 to R213). -/
noncomputable def windowOf (cfg : CfgBank ℝ) (e dataEnd : ℕ) (equi : ℝ) (j cursor : ℕ) : ℕ × ℕ :=
  let sps := equi / cfg.symbolRate
  let Lsf := if cfg.processSubframes then cfg.subframeLength.toNat else cfg.numSymbols.toNat
  let nsym := min Lsf (cfg.numSymbols.toNat - j * Lsf)
  let b := min (if cfg.clockShared then e + ⌈(j * Lsf : ℕ) * sps - 1 / 2⌉₊ else cursor) dataEnd
  (b, min dataEnd (b + ⌈nsym * sps - 1 / 2⌉₊))

/-- Subframe `j` of the loop (R213 to R218, R221, R225), on the beat-corrected capture `x`, with the sample cursor
before it and after it. -/
def IsSubframe (cfg : CfgBank ℝ) (zones : List (ℝ × ℝ)) (x : ℤ → ℂ) (e dataEnd : ℕ) (equi fBeat : ℝ)
    (j cursor next : ℕ) (f : Subframe ℝ) : Prop :=
  let sps := equi / cfg.symbolRate
  let b := (windowOf cfg e dataEnd equi j cursor).1
  let hi := (windowOf cfg e dataEnd equi j cursor).2
  (hi - b < 3 → f = ⟨[], [], [], none⟩ ∧ next = cursor)
  ∧ (3 ≤ hi - b → ∃ (fp beat : ℝ) (p : ℕ),
    IsTracked cfg zones equi (hi - b) (cutOut x b hi) fp beat
    ∧ IsChain cfg equi (hi - b) (cutOut x b hi) fp beat p f
    ∧ f.shift = some (cfg.frequencyShift + fBeat + beat)
    ∧ next = if cfg.clockShared then cursor else ⌈((b + p : ℕ) : ℝ) + f.y.length * sps - 1 / 2⌉₊)

/-- Subframe `j` ends RUN with the error `err`: no pilot in its window (R214), or taps of sum 0 (R215; 42_pilot_tone.md
R146). -/
def SubframeStops (cfg : CfgBank ℝ) (zones : List (ℝ × ℝ)) (x : ℤ → ℂ) (e dataEnd : ℕ) (equi : ℝ)
    (j cursor : ℕ) (err : ErrCode) : Prop :=
  let b := (windowOf cfg e dataEnd equi j cursor).1
  let hi := (windowOf cfg e dataEnd equi j cursor).2
  3 ≤ hi - b
  ∧ ((Untracked cfg zones equi (hi - b) (cutOut x b hi) ∧ err = .errArg)
    ∨ ((∃ fp beat, IsTracked cfg zones equi (hi - b) (cutOut x b hi) fp beat)
      ∧ designSum cfg.firSize.toNat cfg.toneCutoff equi = 0 ∧ err = .errNumeric))

/-- The samples of subframe `j` that are processed in the variants SS and SU, whose windows are known a priori: those
of its window, unless they are fewer than 3 (R213). -/
noncomputable def aPrioriSpan (cfg : CfgBank ℝ) (e dataEnd : ℕ) (equi : ℝ) (j : ℕ) : ℕ :=
  let w := windowOf cfg e dataEnd equi j e
  if w.2 - w.1 < 3 then 0 else w.2 - w.1

/-- Some pilot can be tracked in every window of `m` samples, whatever its data (R141, R143, R145, R214). -/
def Trackable (cfg : CfgBank ℝ) (zones : List (ℝ × ℝ)) (equi : ℝ) (m : ℕ) : Prop :=
  (∃ k, AdmittedBin m equi zones k)
  ∧ (cfg.clockShared = false → cfg.loShared = false → ∀ ka, AdmittedBin m equi zones ka →
    ∃ kb, AdmittedBin m equi ((ka * equi / m - 5000000, ka * equi / m + 5000000) :: zones) kb)

end Sys2Proof.Machine
end

