-- ==== Sys2Proof/Certificates/Slice0/Obligations.lean ====
section
/-! DEFINITION. The statements for the provers. Each docstring names the rules of spec/ that the statement
formalises; titles and citations stand in OBLIGATIONS.json. A next state written `finished` or `failedWith` is that of
the completion, of which one part is the model's choice: the latched word, which the spec drops, becomes 0 (log 4). -/

open Sys2Proof Sys2Proof.Machine

/-! Encoding. -/

/-- Every command is read back from its word, with every operand (30_encoding.md R80, R81, R83, R86). -/
def Obligations.DecodeEncode : Prop := ∀ i : Instr, decode (encode i) = .ok i

/-- A word that is read as a command is the word of that command: no bit is ignored (R81, R87). -/
def Obligations.EncodeDecode : Prop := ∀ (w : Word) (i : Instr), decode w = .ok i → encode i = w

/-- Words written out from the table (the examples of R90 and R88). -/
def Obligations.WordsOfTheTable : Prop :=
  decode 0x00003410#32 = .ok (.downsample 4 3) ∧ decode 0x00003011#32 = .ok (.bestpoint 3)
  ∧ decode 0x00000021#32 = .ok (.sync 0) ∧ decode 0x00000520#32 = .ok (.zcgen 5)
  ∧ decode 0x00054635#32 = .ok (.phcorr 6 4 5) ∧ decode 0x00000050#32 = .ok .run
  ∧ decode 0x00000003#32 = .error .noCommand ∧ decode 0x00100010#32 = .error .noCommand
  ∧ decode 0x00000150#32 = .error .noCommand ∧ decode 0x0000C011#32 = .error .noBuffer

/-! The step. -/

/-- When a command is latched and the block has its turn, the step is the command's meaning; the turn taken
from the agenda is used up (20_memory.md R67). When no command runs, the block keeps all state (R331). The agenda is
the model's own (log 3). -/
def Obligations.StepRunsCommand : Prop :=
  (∀ (s : State) (i : Instr), s.agenda = [] → s.status.busy = true → decode s.latch = .ok i →
    step s = exec i s)
  ∧ (∀ (s : State) (i : Instr) (rest : List Event), s.agenda = .blockTurn :: rest → s.status.busy = true →
    decode s.latch = .ok i → step s = exec i { s with agenda := rest })
  ∧ (∀ s : State, s.agenda = [] → s.status.busy = false → step s = .next s)
  ∧ (∀ (s : State) (rest : List Event), s.agenda = .blockTurn :: rest → s.status.busy = false →
    step s = .next { s with agenda := rest })

/-- Every state has exactly one next state: no step stops (70_reset_and_hazards.md R320). -/
def Obligations.EveryStepCompletes : Prop := ∀ s : State, ∃ t, step s = .next t

/-- An illegal word completes with ERR_ILLEGAL and no other effect than the failure update (30_encoding.md R88),
whether the agenda is empty or gives the block its turn, which is then used up (the agenda is the model's own, log 3;
the latched word becomes 0, log 4). -/
def Obligations.IllegalWordFails : Prop :=
  ∀ s : State, s.status.busy = true → ¬ legalWord s.latch →
    (s.agenda = [] → step s = .next (s.failedWith .errIllegal))
    ∧ ∀ rest : List Event, s.agenda = .blockTurn :: rest →
      step s = .next ({ s with agenda := rest }.failedWith .errIllegal)

/-- An accepted write of the word of a command, followed by the block's turn, runs the command on the state
that the launch left (20_memory.md R66, R67). With the implied WAIT of 30_encoding.md R91 in place of the turn, the
host first reads STATUS with BUSY = 1, the command runs at the block's turn, and the wait goes on. A WAIT that reads
BUSY = 0 is over. The agenda, and the turn between two polls, are the model's own (log 3). -/
def Obligations.CommandWriteRuns : Prop :=
  (∀ (s u : State) (i : Instr) (x : NUM) (rest : List Event), s.status.busy = false →
    s.agenda = .host (.regWrite 0x01 (encode i) x) :: .blockTurn :: rest →
    u = { s with agenda := rest }.launch (encode i) →
    ∃ t, step s = .next t ∧ step t = exec i u ∧ u.latch = encode i)
  ∧ (∀ (s u : State) (i : Instr) (x : NUM) (rest : List Event), s.status.busy = false →
    s.agenda = .host (.regWrite 0x01 (encode i) x) :: .wait :: rest →
    u = { s with agenda := .wait :: rest }.launch (encode i) →
    ∃ t t' : State, step s = .next t ∧ step t = .next t'
      ∧ t'.answer = .word u.status.word ∧ u.status.word.getLsbD 0 = true
      ∧ step t' = exec i { u with answer := t'.answer } ∧ u.latch = encode i)
  ∧ ∀ (s : State) (rest : List Event), s.status.busy = false → s.agenda = .wait :: rest →
    step s = .next { s with agenda := rest, answer := .word s.status.word }

/-! Invariants. -/

/-- Every step keeps the consistency of flags, codes, tables and buffers (that a dropped word leaves 0 is the
model's choice, log 4, and so is the form of the exclusion-zone table, log 11). -/
def Obligations.ConsistentStep : Prop := ∀ s t : State, s.Consistent → step s = .next t → t.Consistent

/-- The reset state is consistent. -/
def Obligations.ConsistentReset : Prop := State.reset.Consistent

/-- Every step keeps every buffer within BUF_MAX, in every state (10_state.md R33). -/
def Obligations.BuffersStayInCapacity : Prop :=
  ∀ s t : State, s.mem.wf = true → step s = .next t → t.mem.wf = true

/-! Reset and the system commands. -/

/-- The reset input, at any time, also while a command runs, leaves exactly the reset state, and so does SRESET:
STATUS, ERRCODE and ERRINFO 0, ID, the defaults, 0 everywhere else, every buffer empty (R310). Only the model's own
two fields, the agenda and the last answer (log 3), are not the block's. -/
def Obligations.ResetValues : Prop :=
  (∀ (s : State) (rest : List Event), s.agenda = .reset :: rest →
    step s = .next { State.reset with agenda := rest, answer := s.answer })
  ∧ (∀ s : State, exec .sreset s = .next { State.reset with agenda := s.agenda, answer := s.answer })
  ∧ State.reset.status.word = 0#32
  ∧ (∀ r : Reg, r ≠ .id → r ≠ .argFactor → r ≠ .argRepeat → r ≠ .argGuard → r ≠ .cfgFirSize →
      r ≠ .cfgToneCutoff → r ≠ .cfgBeatSampleCount →
      r.read State.reset = .word 0#32 ∨ r.read State.reset = .num (.rat 0))
  ∧ Reg.read State.reset .id = .word 0x51420001#32
  ∧ Reg.read State.reset .argFactor = .num (.rat 1)
  ∧ Reg.read State.reset .argRepeat = .word 1#32
  ∧ Reg.read State.reset .argGuard = .num (.rat 5000000)
  ∧ Reg.read State.reset .cfgFirSize = .word 500#32
  ∧ Reg.read State.reset .cfgToneCutoff = .num (.rat 10000000)
  ∧ Reg.read State.reset .cfgBeatSampleCount = .word 100000#32
  ∧ ∀ b : BufId, State.reset.buf b = []

/-- NOP, launched and completed, changes nothing but BUSY, DONE, ERR, ERRCODE and the latched word; CLRERR clears
ERR_STICKY, HOSTVIOL and ERRINFO beside that (47_system.md R250, R251). That the dropped word leaves 0 is the
model's choice (log 4). SRESET leaves exactly the reset state: STATUS is 0, so DONE is not set, every register has its
reset value and every buffer is empty (R252); only the model's own two fields, the agenda and the last answer (log 3),
are not the block's. -/
def Obligations.SystemResults : Prop :=
  decode 0x00000000#32 = .ok .nop ∧ decode 0x00000001#32 = .ok .clrerr ∧ decode 0x00000002#32 = .ok .sreset
  ∧ (∀ s : State,
    exec .nop (s.launch 0x00000000#32) = .next
      { s with status := { s.status with busy := false, done := true, err := false }, errCode := 0#32, latch := 0#32 }
    ∧ exec .clrerr (s.launch 0x00000001#32) = .next
      { s with
        status := { s.status with
          busy := false, done := true, err := false, errSticky := false, hostViol := false }
        errCode := 0#32, errInfo := 0#32, latch := 0#32 })
  ∧ ∀ s : State, ∃ t : State, exec .sreset s = .next t
    ∧ { t with agenda := [], answer := .word 0#32 } = State.reset ∧ t.agenda = s.agenda ∧ t.answer = s.answer
    ∧ t.status.word = 0#32 ∧ (∀ b : BufId, t.buf b = [])
    ∧ ∀ r : Reg, r.read t = r.read State.reset

/-- After reset, every command that obeys R85 fails with the code R312 names, and NOP and CLRERR succeed. -/
def Obligations.CommandsAfterReset : Prop :=
  ∀ i : Instr, i.wellFormed = true → ∃ t, exec i (State.reset.launch (encode i)) = .next t ∧
    (match i with
      | .nop | .clrerr => t.status.done = true ∧ t.status.err = false ∧ t.errCode = 0#32
      | .sreset => t = State.reset
      | .run => t.status.err = true ∧ t.errCode = 2#32
      | _ => t.status.err = true ∧ t.errCode = 5#32)

/-! Launch, completion, failure. -/

/-- The launch by a permitted write of CMD (20_memory.md R66), by the command that the word encodes; any other
word, illegal ones too, has no launch-time clears. -/
def Obligations.LaunchEffect : Prop :=
  ∀ (s : State) (w : Word) (x : NUM), s.status.busy = false →
    (decode w ≠ .ok .run → decode w ≠ .ok .special →
      s.hostAccess (.regWrite 0x01 w x) =
        { s with latch := w, status := { s.status with busy := true, done := false, err := false } })
    ∧ (decode w = .ok .run → ∃ t : State, s.hostAccess (.regWrite 0x01 w x) = t
      ∧ t.latch = w
      ∧ t.status = { s.status with
          busy := true, done := false, err := false, resultValid := false, snapValid := false,
          dbgValid := false, clockAborted := false, short := false }
      ∧ t.dbg = DbgBank.reset ∧ t.sfCount = 0#32
      ∧ (∀ j : Fin Config.maxSf, (Reg.sfLen j).read t = .word 0#32 ∧ (Reg.dbgTlen j).read t = .word 0#32)
      ∧ (∀ b : BufId, t.buf b = if b = BufId.out ∨ b = BufId.dbgTone ∨ b = BufId.dbgPre then [] else s.buf b)
      ∧ { t with
            latch := s.latch, status := s.status, dbg := s.dbg, sfCount := s.sfCount, sfLen := s.sfLen,
            dbgTlen := s.dbgTlen, mem := s.mem } = s)
    ∧ (decode w = .ok .special → ∃ t : State, s.hostAccess (.regWrite 0x01 w x) = t
      ∧ t.latch = w
      ∧ t.status = { s.status with busy := true, done := false, err := false, specialValid := false }
      ∧ (∀ b : BufId, t.buf b = if b = BufId.spoE ∨ b = BufId.spoES then [] else s.buf b)
      ∧ { t with latch := s.latch, status := s.status, mem := s.mem } = s)

/-- When the rule of a command raises `e`, the completion is the failure update and nothing else (R284): a command
launched with DONE clear that ends with ERR set has done it for some `e`, and DONE stays clear. The codes are those of
R280. That the dropped word leaves 0 is the model's choice (log 4). -/
def Obligations.FailureUpdate : Prop :=
  (∀ (s : State) (e : ErrCode), s.complete (.error e) = s.failedWith e)
  ∧ (∀ (i : Instr) (s t : State), s.status.busy = true → s.status.err = false → s.status.done = false →
    exec i s = .next t → t.status.err = true → t.status.done = false ∧ ∃ e : ErrCode, t = s.failedWith e)
  ∧ ∀ e : ErrCode, e.code =
    (match e with
      | .errSchema => 1#32 | .errPilots => 2#32 | .errIllegal => 3#32 | .errAlias => 4#32
      | .errArg => 5#32 | .errSeqFactor => 6#32 | .errRange => 7#32 | .errNumeric => 8#32)

/-- A command that completes without an error: DONE is set and ERR is not, ERRCODE is 0, BUSY is 0 and the
latched word is dropped (R67), which leaves 0 by the model's choice (log 4); ERRINFO is kept but by CLRERR (R24).
SRESET is the one exception (R252). -/
def Obligations.SuccessUpdate : Prop :=
  ∀ (i : Instr) (s t : State), i ≠ .sreset → s.status.busy = true → s.status.err = false →
    exec i s = .next t → t.status.err = false →
    t.status.done = true ∧ t.status.busy = false ∧ t.errCode = 0#32 ∧ t.latch = 0#32
    ∧ (i ≠ .clrerr → t.errInfo = s.errInfo)

/-- A command whose destination is not a work buffer or is also a source completes with ERR_ALIAS and has no
other effect, whatever its other operands (30_encoding.md R84 item 3, R85). -/
def Obligations.AliasFails : Prop :=
  ∀ (i : Instr) (s : State), i.wellFormed = false → exec i s = .next (s.failedWith .errAlias)

/-- The operand conditions under which the primitive commands complete with ERR_ARG, and those under which they
complete with ERR_RANGE, in every state and with no other effect than the failure update (R286, R287). -/
def Obligations.OperandErrors : Prop :=
  ∀ (s : State) (bd bs bt : BufId),
    let fails := fun (i : Instr) (e : ErrCode) => exec i s = .next (s.failedWith e)
    let n := (s.buf bs).length
    let L := s.cfg.sequenceLength.toNat
    let q := s.arg.repeats.toNat
    let T := s.cfg.firSize.toNat
    let rate := s.arg.rate.toReal
    let factor := s.arg.factor.toReal
    let badCutoff := s.cfg.toneCutoff.toReal ≤ 0 ∨ rate / 2 ≤ s.cfg.toneCutoff.toReal
    (destinationOk bd [bs] = true →
      (n = 0 ∨ factor ≤ 0 → fails (.downsample bd bs) .errArg)
      ∧ (T = 0 ∨ n < T ∨ rate ≤ 0 ∨ badCutoff → fails (.tone bd bs) .errArg)
      ∧ (n = 0 ∨ rate ≤ 0 → fails (.phnoise bd bs) .errArg)
      ∧ (n = 0 ∨ rate ≤ 0 → fails (.fshift bd bs) .errArg)
      ∧ (factor ≤ 0 ∨ rate ≤ 0 ∨ s.cfg.symbolRate.toReal ≤ 0 ∨ s.cfg.rollOff.toReal < 0
          ∨ 1 < s.cfg.rollOff.toReal → fails (.mfilt bd bs) .errArg)
      ∧ (n ≠ 0 → 0 < factor → posOf s.arg.start.toNat factor Config.bufMax < n →
        fails (.downsample bd bs) .errRange))
    ∧ (destinationOk bd [bs, bt] = true → (n = 0 ∨ s.buf bt = [] ∨ factor ≤ 0) → fails (.phcorr bd bs bt) .errArg)
    ∧ (destinationOk bd [] = true → (L = 0 ∨ q = 0 → fails (.zcgen bd) .errArg)
      ∧ (L ≠ 0 → q ≠ 0 → Config.bufMax < L * q → fails (.zcgen bd) .errRange))
    ∧ (n = 0 ∨ factor ≤ 0 → fails (.bestpoint bs) .errArg)
    ∧ (n ≠ 0 → 0 < factor → 2 ^ 32 - 1 < ⌈factor⌉ → fails (.bestpoint bs) .errRange)
    ∧ (L = 0 ∨ q = 0 ∨ n < 50 ∨ n < L * q → fails (.sync bs) .errArg)
    ∧ (n < 3 ∨ rate ≤ 0 → fails (.find1 bs) .errArg)
    ∧ (n < 3 ∨ rate ≤ 0 ∨ s.arg.guard.toReal < 0 → fails (.find2 bs) .errArg)
    ∧ (T = 0 ∨ n < T ∨ n < 2 ∨ s.arg.freq.toReal = 0 ∨ rate ≤ 0 ∨ badCutoff → fails (.eqrate bs) .errArg)

/-- The entry checks of RUN and of SPECIAL, in every state, in their order, each with no other effect than the
failure update (45_pipeline.md R203, R204, R205; 46_special_dsp.md R240, R242; 60_exceptions.md R283). -/
def Obligations.EntryErrors : Prop :=
  (∀ (s : State),
    let fails := fun e : ErrCode => exec .run s = .next (s.failedWith e)
    let cfg := s.cfg.toReal
    let N := (s.buf BufId.cap).length
    (s.cfg.detectionSchema ≠ 0#32 → fails .errSchema)
    ∧ (s.cfg.detectionSchema = 0#32 →
      (¬ PilotsOk cfg → fails .errPilots)
      ∧ (PilotsOk cfg → ¬ OperandsOk cfg N → fails .errArg)
      ∧ (PilotsOk cfg → OperandsOk cfg N → (¬ ∃ q : ℕ, IsRepeatFactor cfg q) → fails .errSeqFactor)
      ∧ ∀ q : ℕ, PilotsOk cfg → OperandsOk cfg N → IsRepeatFactor cfg q →
        (N < s.cfg.sequenceLength.toNat * q → fails .errArg)
        ∧ (s.cfg.sequenceLength.toNat * q ≤ N → Config.maxSf < planCount cfg → fails .errRange)))
  ∧ ∀ (s : State),
    let fails := fun e : ErrCode => exec .special s = .next (s.failedWith e)
    let b := s.snap.toReal
    let valuesOk := 0 < b.symbolRate ∧ 0 < b.equiRate ∧ 0 ≤ b.rollOff ∧ b.rollOff ≤ 1
    let tooLong := fun x : List (Cx NUM) => posOf 0 (b.equiRate / b.symbolRate) Config.bufMax < x.length
    (s.snap.schema ≠ 0#32 → fails .errSchema)
    ∧ (s.snap.schema = 0#32 → ¬ valuesOk → fails .errArg)
    ∧ (s.snap.schema = 0#32 → valuesOk → (s.buf BufId.calE = [] ∨ s.buf BufId.calES = []) → fails .errArg)
    ∧ (s.snap.schema = 0#32 → valuesOk → s.buf BufId.calE ≠ [] → s.buf BufId.calES ≠ [] →
      (tooLong (s.buf BufId.calE) ∨ tooLong (s.buf BufId.calES)) → fails .errRange)

/-! Frames. -/

/-- No command changes a buffer other than its destination or the buffers its rule names (10_state.md R40). -/
def Obligations.BufferFrame : Prop :=
  ∀ (i : Instr) (s t : State), exec i s = .next t → ∀ b : BufId, ¬ mayWrite i b →
    t.buf b = s.buf b ∧ ∀ n : ℕ, t.mem.read b.val n = s.mem.read b.val n

/-- No command but SRESET writes an argument register, a configuration register or an exclusion zone
(R25, R27, R29); no command but RUN and SRESET the snapshot, the debug bank or the subframe tables (R30, R31, R32),
and a RUN with CFG_DEBUG = 0 leaves the debug bank and DBG_TLEN as the launch left them (R226). No command touches the
environment's two fields, which are the model's own (log 3). -/
def Obligations.RegisterFrame : Prop :=
  ∀ (i : Instr) (s t : State), exec i s = .next t →
    t.agenda = s.agenda ∧ t.answer = s.answer
    ∧ (i ≠ .sreset → t.arg = s.arg ∧ t.cfg = s.cfg ∧ t.exclLo = s.exclLo ∧ t.exclHi = s.exclHi)
    ∧ (i ≠ .sreset → i ≠ .run → t.snap = s.snap ∧ t.dbg = s.dbg ∧ t.sfCount = s.sfCount ∧ t.sfLen = s.sfLen
      ∧ t.dbgTlen = s.dbgTlen)
    ∧ (i ≠ .sreset → s.cfg.debug = false → t.dbg = s.dbg ∧ t.dbgTlen = s.dbgTlen)

/-- The result registers are written by the commands that R26 names, and by no other but SRESET. -/
def Obligations.ResultRegisterFrame : Prop :=
  ∀ (i : Instr) (s t : State), exec i s = .next t →
    match i with
    | .sreset => t.res = ResBank.reset
    | .bestpoint _ => t.res = { s.res with i0 := t.res.i0 }
    | .sync _ => t.res = { s.res with i0 := t.res.i0, i1 := t.res.i1 }
    | .find1 _ => t.res = { s.res with n0 := t.res.n0 }
    | .find2 _ | .eqrate _ => t.res = { s.res with n0 := t.res.n0, n1 := t.res.n1 }
    | _ => t.res = s.res

/-- A command changes only the flags that 10_state.md R23 says it sets or clears: beside BUSY, DONE, ERR and
ERR_STICKY, RUN its five, SPECIAL its one, CLRERR its two. -/
def Obligations.FlagFrame : Prop :=
  ∀ (i : Instr) (s t : State), exec i s = .next t → i ≠ .sreset →
    (i ≠ .run → t.status.resultValid = s.status.resultValid ∧ t.status.snapValid = s.status.snapValid
      ∧ t.status.dbgValid = s.status.dbgValid ∧ t.status.clockAborted = s.status.clockAborted
      ∧ t.status.short = s.status.short)
    ∧ (i ≠ .special → t.status.specialValid = s.status.specialValid)
    ∧ (i ≠ .clrerr → t.status.hostViol = s.status.hostViol
      ∧ (s.status.errSticky = true → t.status.errSticky = true))

/-- The sticky error record is lost by CLRERR, SRESET and reset only (R23). -/
def Obligations.StickyKept : Prop :=
  ∀ s t : State, step s = .next t → s.status.errSticky = true → t.status.errSticky = false →
    (∃ rest, s.agenda = .reset :: rest)
    ∨ (s.status.busy = true ∧ (decode s.latch = .ok .clrerr ∨ decode s.latch = .ok .sreset))

/-! The resampler. -/

/-- DOWNSAMPLE, on any data and with any factor above 0: element k of the result is the source's element at
ceil(start + k·f − 1/2), for every k for which that position exists (R101, R102, R5). For an integral factor it is
exact stride slicing (R103). -/
def Obligations.DownsampleResult : Prop :=
  ∀ (bd bs : BufId) (s : State), destinationOk bd [bs] = true → s.buf bs ≠ [] → 0 < s.arg.factor.toReal →
    ((s.buf bs).length : ℤ) ≤ posOf s.arg.start.toNat s.arg.factor.toReal Config.bufMax →
    ∃ y : List (Cx NUM), exec (.downsample bd bs) s = .next (s.withBuf bd y).finished
      ∧ (∀ k : ℕ, y[k]? = (s.buf bs)[(posOf s.arg.start.toNat s.arg.factor.toReal k).toNat]?)
      ∧ ∀ f : ℕ, s.arg.factor.toReal = f → ∀ k : ℕ, y[k]? = (s.buf bs)[s.arg.start.toNat + k * f]?

/-- The downsampling function over the exact reals, for sequences of any kind: element k of the result is the
source's element at ceil(start + k·f − 1/2), for exactly the k for which that is a position of the source
(R102, R5). -/
def Obligations.DownsamplePositions : Prop :=
  ∀ (α : Type) (zero : α) (d : List α) (start : ℕ) (f : ℝ), 0 < f →
    ∃ K : ℕ, (Arith.real.downsample zero d start f).length = K
      ∧ (∀ k : ℕ, k < K ↔ ⌈(start : ℝ) + k * f - 1 / 2⌉ ≤ (d.length : ℤ) - 1)
      ∧ ∀ k : ℕ, k < K →
        (Arith.real.downsample zero d start f)[k]? = d[⌈(start : ℝ) + k * f - 1 / 2⌉.toNat]?

/-- BESTPOINT, on any data and with any factor above 0: the least offset of maximal population variance among the
ceil(factor) candidates that are not empty goes to RES_I0, and nothing else changes (R104, R105, R106, R6, R7). -/
def Obligations.BestpointResult : Prop :=
  ∀ (bs : BufId) (s : State), s.buf bs ≠ [] → 0 < s.arg.factor.toReal → ⌈s.arg.factor.toReal⌉ ≤ 2 ^ 32 - 1 →
    ∃ p : ℕ, exec (.bestpoint bs) s = .next { s with res := { s.res with i0 := BitVec.ofNat 32 p } }.finished
      ∧ IsBestpoint (s.buf bs).length (sampleAt (s.buf bs)) s.arg.factor.toReal p

/-! The sequence correlator. -/

/-- ZCGEN writes the Zadoff-Chu sequence with every element repeated (R121, R122, R125, R16). -/
def Obligations.ZcgenResult : Prop :=
  ∀ (bd : BufId) (s : State), destinationOk bd [] = true → s.cfg.sequenceLength ≠ 0#32 →
    s.arg.repeats ≠ 0#32 → s.cfg.sequenceLength.toNat * s.arg.repeats.toNat ≤ Config.bufMax →
    ∃ y : List (Cx NUM), exec (.zcgen bd) s = .next (s.withBuf bd y).finished
      ∧ y.length = s.cfg.sequenceLength.toNat * s.arg.repeats.toNat
      ∧ ∀ j : ℕ, j < y.length →
        sampleAt y j = zcOf s.cfg.sequenceRoot.toNat s.cfg.sequenceLength.toNat (j / s.arg.repeats.toNat)

/-- The synchroniser: coarse localisation by the first maximum of the trailing mean magnitude, then the first
maximum of the correlation's modulus in the window (R124, R125, R126, R127). As a function of the exact reals, and as
the command SYNC, on any data: the range of the length of the repeated reference goes to RES_I0 and RES_I1, and nothing
else changes (R123). -/
def Obligations.SyncResult : Prop :=
  (∀ (x : List (Cx ℝ)) (u L q : ℕ), 50 ≤ x.length → 1 ≤ L → 1 ≤ q → L * q ≤ x.length →
    ∃ st : ℕ, Arith.real.sync x u L q = (st, st + L * q) ∧ IsSync x.length (realSampleAt x) u L q st)
  ∧ ∀ (bs : BufId) (s : State),
    let L := s.cfg.sequenceLength.toNat
    let q := s.arg.repeats.toNat
    s.cfg.sequenceLength ≠ 0#32 → s.arg.repeats ≠ 0#32 → 50 ≤ (s.buf bs).length → L * q ≤ (s.buf bs).length →
    ∃ st : ℕ,
      exec (.sync bs) s = .next { s with res := { s.res with
          i0 := BitVec.ofNat 32 st
          i1 := BitVec.ofNat 32 (st + L * q) } }.finished
      ∧ IsSync (s.buf bs).length (sampleAt (s.buf bs)) s.cfg.sequenceRoot.toNat L q st

/-! The pilot-tone extractor. -/

/-- The pilot detector: the least admitted bin that maximises the modulus of the discrete Fourier transform, and
ERR_ARG when no bin is admitted (R143, R141, R11). As a function of the exact reals, and as the command FIND1, on any
data: the frequency goes to RES_N0, and nothing else changes; without an admitted bin the command fails (R142). The
zones of the command are the first min(CFG_NUM_EXCL, MAX_EXCL) pairs of the exclusion-zone registers (10_state.md
R29). -/
def Obligations.Find1Result : Prop :=
  (∀ (x : List (Cx ℝ)) (rate : ℝ) (zones : List (ℝ × ℝ)), 3 ≤ x.length →
    ((¬ ∃ k, AdmittedBin x.length rate zones k) → Arith.real.find1 x rate zones = .error .errArg)
    ∧ ((∃ k, AdmittedBin x.length rate zones k) →
      ∃ f, Arith.real.find1 x rate zones = .ok f ∧ IsPilot x.length (realSampleAt x) rate zones f))
  ∧ ∀ (bs : BufId) (s : State), 3 ≤ (s.buf bs).length → 0 < s.arg.rate.toReal →
    let admitted := AdmittedBin (s.buf bs).length s.arg.rate.toReal (zoneValues s.zones)
    ((∃ k, admitted k) → ∃ f : NUM,
      exec (.find1 bs) s = .next { s with res := { s.res with n0 := f } }.finished
      ∧ IsPilot (s.buf bs).length (sampleAt (s.buf bs)) s.arg.rate.toReal (zoneValues s.zones) f.toReal)
    ∧ ((∃ k, admitted k) ∨ exec (.find1 bs) s = .next (s.failedWith .errArg))
    ∧ s.zones.length = min s.cfg.numExcl.toNat Config.maxExcl
    ∧ ∀ i : Fin Config.maxExcl, i.val < s.cfg.numExcl.toNat → ∃ lo hi : NUM,
      Reg.read s (.exclLo i) = .num lo ∧ Reg.read s (.exclHi i) = .num hi ∧ s.zones[i.val]? = some (lo, hi)

/-- FIND2, on any data: two searches, the second with the guard band around the first pilot excluded as well; the
lower frequency goes to RES_N0, the upper to RES_N1, and nothing else changes (R144, R145). The command completes when
the first search finds a bin and every bin leaves another outside its guard band; it fails with ERR_ARG when a search
has no bin. -/
def Obligations.Find2Result : Prop :=
  ∀ (bs : BufId) (s : State), 3 ≤ (s.buf bs).length → 0 < s.arg.rate.toReal → 0 ≤ s.arg.guard.toReal →
    let N := (s.buf bs).length
    let x := sampleAt (s.buf bs)
    let rate := s.arg.rate.toReal
    let G := s.arg.guard.toReal
    let zones := zoneValues s.zones
    let found := ∃ n0 n1 : NUM,
      exec (.find2 bs) s = .next { s with res := { s.res with n0 := n0, n1 := n1 } }.finished
      ∧ IsPilotPair N x rate zones G n0.toReal n1.toReal ∧ n0.toReal < n1.toReal
    let guarded := fun f : ℝ => AdmittedBin N rate ((f - G, f + G) :: zones)
    ((∃ k, AdmittedBin N rate zones k) →
      (∀ ka, AdmittedBin N rate zones ka → ∃ kb, guarded (ka * rate / N) kb) → found)
    ∧ (∀ fa, IsPilot N x rate zones fa → (∃ kb, guarded fa kb) → found)
    ∧ (∀ fa, IsPilot N x rate zones fa → (¬ ∃ kb, guarded fa kb) →
      exec (.find2 bs) s = .next (s.failedWith .errArg))
    ∧ ((∃ k, AdmittedBin N rate zones k) ∨ exec (.find2 bs) s = .next (s.failedWith .errArg))

/-- TONE, on any data: the centred convolution with the modulated windowed-sinc taps, or ERR_NUMERIC when the taps
have sum 0 (R148, R147, R146, R10). -/
def Obligations.ToneResult : Prop :=
  ∀ (bd bs : BufId) (s : State), destinationOk bd [bs] = true →
    let T := s.cfg.firSize.toNat
    let fs := s.arg.rate.toReal
    let fc := s.cfg.toneCutoff.toReal
    T ≠ 0 → T ≤ (s.buf bs).length → 0 < fs → 0 < fc → fc < fs / 2 →
    (designSum T fc fs ≠ 0 →
      ∃ y : List (Cx NUM), exec (.tone bd bs) s = .next (s.withBuf bd y).finished
        ∧ y.length = (s.buf bs).length
        ∧ ∀ n : ℕ, n < y.length → sampleAt y n = toneOf T fc fs s.arg.freq.toReal (sampleAt (s.buf bs)) n)
    ∧ (designSum T fc fs ≠ 0 ∨ exec (.tone bd bs) s = .next (s.failedWith .errNumeric))

/-- The low-pass design over the exact reals: T windowed-sinc taps divided by their sum, or ERR_NUMERIC when that
sum is 0; the taps are symmetric and have sum 1 (R146). -/
def Obligations.LowpassUnitGain : Prop :=
  ∀ (T : ℕ) (fc fs : ℝ), 1 ≤ T → 0 < fc → fc < fs / 2 →
    let S := designSum T fc fs
    let lp := (List.range T).map fun n => designTap T fc fs n / S
    Arith.real.lowpass T fc fs = (if S = 0 then .error .errNumeric else .ok lp)
    ∧ lp.reverse = lp ∧ (S = 0 ∨ lp.sum = 1)

/-- EQRATE, on any data: the residual Δf, the least-squares slope of the unwrapped phase difference between the
filtered tone and the ideal one over 2π, goes to RES_N1 and the equivalent rate fs / ((f + Δf)/f) to RES_N0, and
nothing else changes; ERR_NUMERIC when the taps have sum 0 or f + Δf is 0 (R152, R151, R150, R9, R12). -/
def Obligations.EqrateResult : Prop :=
  ∀ (bs : BufId) (s : State),
    let N := (s.buf bs).length
    let T := s.cfg.firSize.toNat
    let f := s.arg.freq.toReal
    let fs := s.arg.rate.toReal
    let fc := s.cfg.toneCutoff.toReal
    let Δf := residualOf N (sampleAt (s.buf bs)) f fs T fc
    T ≠ 0 → T ≤ N → 2 ≤ N → f ≠ 0 → 0 < fs → 0 < fc → fc < fs / 2 →
    (designSum T fc fs ≠ 0 → f + Δf ≠ 0 → ∃ n0 n1 : NUM,
      exec (.eqrate bs) s = .next { s with res := { s.res with n0 := n0, n1 := n1 } }.finished
      ∧ n1.toReal = Δf ∧ n0.toReal = fs / ((f + Δf) / f))
    ∧ (designSum T fc fs ≠ 0 → f + Δf = 0 → exec (.eqrate bs) s = .next (s.failedWith .errNumeric))
    ∧ (designSum T fc fs ≠ 0 ∨ exec (.eqrate bs) s = .next (s.failedWith .errNumeric))

/-! The phase corrector. -/

/-- PHNOISE, on any data, writes a real sequence of the length of its source: the moving average of the unwrapped
difference angle(t[n]) − angle(cis(2π·f·n/fs)) (R171, R173, R172, R150). -/
def Obligations.PhnoiseResult : Prop :=
  ∀ (bd bs : BufId) (s : State), destinationOk bd [bs] = true → s.buf bs ≠ [] → 0 < s.arg.rate.toReal →
    ∃ y : List (Cx NUM), exec (.phnoise bd bs) s = .next (s.withBuf bd y).finished
      ∧ y.length = (s.buf bs).length
      ∧ ∀ n : ℕ, n < y.length → sampleAt y n =
        ((smoothOf (s.buf bs).length s.cfg.phaseFilterSize.toNat
          (phasediffOf (sampleAt (s.buf bs)) s.arg.freq.toReal s.arg.rate.toReal) n : ℝ) : ℂ)

/-- The unwrapping over the exact reals: the first element stays, every step `d` of the input becomes the step
`w` of R9, which differs from it by a multiple of 2π, is at most π in size, is kept when it already was, and has
the input's sign at the two ends (R9). -/
def Obligations.UnwrapSteps : Prop :=
  ∀ p : List ℝ, (Arith.real.unwrap p).length = p.length ∧ (Arith.real.unwrap p).head? = p.head?
    ∧ ∀ n : ℕ, n + 1 < p.length → ∃ (k : ℤ) (d w : ℝ),
      d = p.getD (n + 1) 0 - p.getD n 0
      ∧ (Arith.real.unwrap p).getD (n + 1) 0 = (Arith.real.unwrap p).getD n 0 + w
      ∧ (|d| ≤ Real.pi → w = d)
      ∧ (Real.pi < d → w = |d| - 2 * Real.pi * ⌈(|d| - Real.pi) / (2 * Real.pi)⌉)
      ∧ (d < -Real.pi → w = -(|d| - 2 * Real.pi * ⌈(|d| - Real.pi) / (2 * Real.pi)⌉))
      ∧ w = d - 2 * Real.pi * k ∧ |w| ≤ Real.pi ∧ (0 < d → w ≠ -Real.pi) ∧ (d < 0 → w ≠ Real.pi)

/-- The moving average over the exact reals: the mean of the window clipped to the sequence, and the sequence
itself for a window of 0 or 1 (R172, R7). -/
def Obligations.SmoothMeans : Prop :=
  ∀ (φ : List ℝ) (W : ℕ), (W ≤ 1 → Arith.real.smooth φ W = φ)
    ∧ (2 ≤ W → (Arith.real.smooth φ W).length = φ.length
      ∧ ∀ n : ℕ, n < φ.length →
        (Arith.real.smooth φ W)[n]? =
          some ((∑ j ∈ Finset.Icc (n - (W - 1) / 2) (min (φ.length - 1) (n + W / 2)), φ.getD j 0)
            / (min (φ.length - 1) (n + W / 2) + 1 - (n - (W - 1) / 2) : ℕ)))

/-- PHCORR, on any data and with any factor above 0: every symbol is turned back by the real part of the trajectory
at the symbol's position; ERR_ARG when the trajectory has no such position (R174, R175). -/
def Obligations.PhcorrResult : Prop :=
  ∀ (bd bs bt : BufId) (s : State), destinationOk bd [bs, bt] = true → s.buf bs ≠ [] → s.buf bt ≠ [] →
    let f := s.arg.factor.toReal
    0 < f →
    (posOf s.arg.start.toNat f ((s.buf bs).length - 1) < (s.buf bt).length →
      ∃ y : List (Cx NUM), exec (.phcorr bd bs bt) s = .next (s.withBuf bd y).finished
        ∧ y.length = (s.buf bs).length
        ∧ ∀ n : ℕ, n < y.length →
          sampleAt y n = sampleAt (s.buf bs) n
            * cisOf (-(sampleAt (s.buf bt) (posOf s.arg.start.toNat f n)).re))
    ∧ ((s.buf bt).length ≤ posOf s.arg.start.toNat f ((s.buf bs).length - 1) →
      exec (.phcorr bd bs bt) s = .next (s.failedWith .errArg))

/-! The de-shift and the matched filter. -/

/-- FSHIFT, on any data: element n is turned by −2π·f·n/fs (R186, R185). -/
def Obligations.FshiftResult : Prop :=
  ∀ (bd bs : BufId) (s : State), destinationOk bd [bs] = true → s.buf bs ≠ [] → 0 < s.arg.rate.toReal →
    ∃ y : List (Cx NUM), exec (.fshift bd bs) s = .next (s.withBuf bd y).finished
      ∧ y.length = (s.buf bs).length
      ∧ ∀ n : ℕ, n < y.length →
        sampleAt y n = shiftedBy (sampleAt (s.buf bs)) s.arg.freq.toReal s.arg.rate.toReal n

/-- MFILT, on any data: the centred convolution with floor(10·sps + 2) root-raised-cosine taps, divided by the
square root of sps; ERR_ARG when the source is shorter than the taps (R190, R191, R189, R187, R10). -/
def Obligations.MfiltResult : Prop :=
  ∀ (bd bs : BufId) (s : State), destinationOk bd [bs] = true →
    let sps := s.arg.factor.toReal
    let fs := s.arg.rate.toReal
    let β := s.cfg.rollOff.toReal
    let Rs := s.cfg.symbolRate.toReal
    0 < sps → 0 < fs → 0 ≤ β → β ≤ 1 → 0 < Rs →
    (⌊10 * sps + 2⌋₊ ≤ (s.buf bs).length →
      ∃ y : List (Cx NUM), exec (.mfilt bd bs) s = .next (s.withBuf bd y).finished
        ∧ y.length = (s.buf bs).length
        ∧ ∀ n : ℕ, n < y.length → sampleAt y n = filteredBy sps β Rs fs (sampleAt (s.buf bs)) n)
    ∧ ((s.buf bs).length < ⌊10 * sps + 2⌋₊ → exec (.mfilt bd bs) s = .next (s.failedWith .errArg))

/-! RUN. -/

/-- What a RUN whose stages raise no error writes: symbols, tables, the snapshot with the mean of the shifts
applied, the flags, and the debug record when CFG_DEBUG is 1 (R219, R222, R224, R225, R226). The values of the stages
are given by RunStages and RunSubframes. -/
def Obligations.RunResult : Prop :=
  ∀ (s : State) (o : RunOut NUM), numArith.run s.cfg s.zones (s.buf BufId.cap) = .ok o →
    ∃ t : State, exec .run s = .next t
      ∧ t.buf BufId.out = (o.frames.map Subframe.z).flatten
      ∧ t.sfCount = BitVec.ofNat 32 o.frames.length
      ∧ t.sfLen = o.frames.map (fun f => BitVec.ofNat 32 f.z.length)
      ∧ t.snap.symbolRate = s.cfg.symbolRate ∧ t.snap.equiRate = o.equi ∧ t.snap.rollOff = s.cfg.rollOff
      ∧ t.snap.schema = s.cfg.detectionSchema
      ∧ (let shifts := (o.frames.filterMap Subframe.shift).map NUM.toReal
        (shifts = [] → t.snap.freqShift.toReal = s.cfg.frequencyShift.toReal + o.fBeat.toReal)
        ∧ (shifts ≠ [] → t.snap.freqShift.toReal = shifts.sum / shifts.length))
      ∧ t.status.done = true ∧ t.status.busy = false ∧ t.errCode = 0#32
      ∧ t.status.resultValid = true ∧ t.status.snapValid = true ∧ t.status.clockAborted = o.aborted
      ∧ (t.status.short = true ↔ (t.buf BufId.out).length < s.cfg.numSymbols.toNat)
      ∧ (s.cfg.debug = true → t.status.dbgValid = true
        ∧ t.buf BufId.dbgTone = (o.frames.map Subframe.t).flatten
        ∧ t.buf BufId.dbgPre = (o.frames.map Subframe.y).flatten
        ∧ t.dbgTlen = o.frames.map (fun f => BitVec.ofNat 32 f.t.length)
        ∧ t.dbg.seqStart = BitVec.ofNat 32 o.s ∧ t.dbg.seqEnd = BitVec.ofNat 32 o.e
        ∧ t.dbg.dataStart = BitVec.ofNat 32 o.e ∧ t.dbg.dataEnd = BitVec.ofNat 32 o.dataEnd
        ∧ t.dbg.equiRate = o.equi
        ∧ (match s.cfg.clockShared, s.cfg.loShared with
          | true, true => t.dbg.fields = 0x43#32 ∧ t.dbg.fPilot0 = .rat 0 ∧ t.dbg.fPilot1 = .rat 0
            ∧ t.dbg.fBeat = .rat 0 ∧ t.dbg.deltaF = .rat 0
          | true, false => t.dbg.fields = 0x57#32 ∧ o.obs0 = some t.dbg.fPilot0 ∧ t.dbg.fPilot1 = .rat 0
            ∧ t.dbg.fBeat = o.fBeat ∧ t.dbg.deltaF = .rat 0
          | false, true => t.dbg.fields = 0x47#32 ∧ o.obs0 = some t.dbg.fPilot0 ∧ t.dbg.fPilot1 = .rat 0
            ∧ t.dbg.fBeat = .rat 0 ∧ t.dbg.deltaF = .rat 0
          | false, false => t.dbg.fields = 0x7F#32 ∧ o.obs0 = some t.dbg.fPilot0 ∧ o.obs1 = some t.dbg.fPilot1
            ∧ t.dbg.fBeat = o.fBeat ∧ t.dbg.deltaF.toReal = t.dbg.fPilot1.toReal - t.dbg.fPilot0.toReal))
      ∧ (s.cfg.debug = false → t.dbg = s.dbg ∧ t.dbgTlen = s.dbgTlen
        ∧ t.buf BufId.dbgTone = s.buf BufId.dbgTone ∧ t.buf BufId.dbgPre = s.buf BufId.dbgPre
        ∧ t.status.dbgValid = s.status.dbgValid)

/-- The stages of RUN before the loop, over the exact reals: the entry checks have passed, stage 1 has its formula in
each variant, the clock abort is applied, the capture is corrected and synchronised, the second pass of variant UU is
done, and the useful data end where R210 says (R203 to R210). -/
def Obligations.RunStages : Prop :=
  ∀ (cfg : CfgBank ℝ) (zones : List (ℝ × ℝ)) (cap : List (Cx ℝ)) (o : RunOut ℝ),
    Arith.real.run cfg zones cap = .ok o →
    ∃ (q : ℕ) (equi0 beat0 beat : ℝ), EntryOk cfg cap.length q
      ∧ IsStage1 cfg zones cap.length (realSampleAt cap) equi0 beat0 o.obs0 o.obs1
      ∧ (o.aborted = true ↔ ClockAborts cfg equi0)
      ∧ IsClock cfg equi0 beat0 o.obs0 o.equi beat
      ∧ IsStage2 cfg zones cap.length (realSampleAt cap) q o.equi beat o.fBeat o.s
      ∧ o.e = o.s + cfg.sequenceLength.toNat * q ∧ o.e ≤ cap.length
      ∧ o.dataEnd = dataEndOf cfg cap.length o.e o.equi

/-- The subframe loop of RUN, over the exact reals: in rising order, every subframe has the window of R213, and in a
window of 3 samples or more the pilot is tracked, the tone recovered, the data de-shifted, filtered, sampled at the best
point and phase-corrected; the sample cursor goes on as R221 says (R213 to R218, R220, R221, R225). -/
def Obligations.RunSubframes : Prop :=
  ∀ (cfg : CfgBank ℝ) (zones : List (ℝ × ℝ)) (cap : List (Cx ℝ)) (o : RunOut ℝ),
    Arith.real.run cfg zones cap = .ok o →
    o.frames.length = planCount cfg
    ∧ ∃ cursor : ℕ → ℕ, cursor 0 = o.e
      ∧ ∀ (j : ℕ) (f : Subframe ℝ), o.frames[j]? = some f →
        IsSubframe cfg zones (shiftedBy (realSampleAt cap) o.fBeat o.equi) o.e o.dataEnd o.equi o.fBeat j
          (cursor j) (cursor (j + 1)) f

/-- RUN completes, in each of the four variants: when the entry checks pass, the stages before the loop have their
values, the taps do not sum to 0, a pilot can be tracked in every window that can occur, and the concatenations fit
(R200, R203 to R210, R213, R214, R219, R224). With windows known a priori (SS, SU) the bounds are those of the windows;
with windows from actual timing (US, UU) the windows do not overlap, so the tones always fit, and the symbols are at
most the samples over sps and one more for every window. -/
def Obligations.RunCompletes : Prop :=
  ∀ (s : State) (q st : ℕ) (equi0 beat0 equi beat fBeat : ℝ) (obs0 obs1 : Option ℝ),
    let cfg := s.cfg.toReal
    let zones := zoneValues s.zones
    let N := (s.buf BufId.cap).length
    let x := sampleAt (s.buf BufId.cap)
    let e := st + s.cfg.sequenceLength.toNat * q
    let D := dataEndOf cfg N e equi - e
    let J := planCount cfg
    let sps := equi / cfg.symbolRate
    let span := aPrioriSpan cfg e (dataEndOf cfg N e equi) equi
    EntryOk cfg N q → IsStage1 cfg zones N x equi0 beat0 obs0 obs1 →
    IsClock cfg equi0 beat0 obs0 equi beat → IsStage2 cfg zones N x q equi beat fBeat st →
    (3 ≤ D → designSum s.cfg.firSize.toNat cfg.toneCutoff equi ≠ 0) → N ≤ Config.bufMax →
    (cfg.clockShared = true → (∀ j : ℕ, j < J → 3 ≤ span j → Trackable cfg zones equi (span j))
      ∧ (∑ j ∈ Finset.range J, span j) ≤ Config.bufMax
      ∧ (∑ j ∈ Finset.range J, ⌈span j / sps⌉₊) ≤ Config.bufMax) →
    (cfg.clockShared = false → (∀ m : ℕ, 3 ≤ m → m ≤ D → (m = D ∨ 1 < J) → Trackable cfg zones equi m)
      ∧ ⌊D / sps⌋₊ + min J (D / 3) ≤ Config.bufMax) →
    ∃ t : State, exec .run s = .next t ∧ t.status.done = true ∧ t.status.err = s.status.err
      ∧ t.errCode = 0#32 ∧ t.status.resultValid = true ∧ t.status.snapValid = true
      ∧ (t.status.clockAborted = true ↔ ClockAborts cfg equi0) ∧ t.sfCount = BitVec.ofNat 32 J
      ∧ t.snap.symbolRate = s.cfg.symbolRate ∧ t.snap.equiRate.toReal = equi ∧ t.snap.rollOff = s.cfg.rollOff
      ∧ t.snap.schema = 0#32

/-- The errors of RUN after its entry checks, each with no other effect than the failure update: no pilot in stage 1, in
the second pass or in a window of the loop, a cutoff that is too high, taps of sum 0, a rate that is not positive, a
concatenation that does not fit (R206, R207, R209, R214, R215, R219; 42_pilot_tone.md R143, R145, R146, R151). A stage
stops RUN when the stages before it have their values, and subframe `frames.length` when the subframes before it are
`frames`. That the length check does not depend on CFG_DEBUG is the model's reading (DEDUCED, log 7). No witness is
claimed for taps of sum 0, which R146 provides for. -/
def Obligations.RunStops : Prop :=
  ∀ (s : State) (q : ℕ),
    let fails := fun err : ErrCode => exec .run s = .next (s.failedWith err)
    let cfg := s.cfg.toReal
    let zones := zoneValues s.zones
    let N := (s.buf BufId.cap).length
    let x := sampleAt (s.buf BufId.cap)
    EntryOk cfg N q →
    (∀ err : ErrCode, Stage1Stops cfg zones N x err → fails err)
    ∧ ∀ (equi0 beat0 equi beat : ℝ) (obs0 obs1 : Option ℝ), IsStage1 cfg zones N x equi0 beat0 obs0 obs1 →
      IsRate cfg equi0 beat0 obs0 equi beat →
      (equi ≤ 0 → fails .errNumeric)
      ∧ (0 < equi → equi / 2 ≤ cfg.toneCutoff → fails .errArg)
      ∧ (0 < equi → cfg.toneCutoff < equi / 2 →
        (Stage2Stops cfg zones N x q equi beat → fails .errArg)
        ∧ ∀ (fBeat : ℝ) (st : ℕ), IsStage2 cfg zones N x q equi beat fBeat st →
          let e := st + s.cfg.sequenceLength.toNat * q
          let dataEnd := dataEndOf cfg N e equi
          ∀ (cursor : ℕ → ℕ) (frames : List (Subframe ℝ)), cursor 0 = e →
            (∀ (j : ℕ) (f : Subframe ℝ), frames[j]? = some f →
              IsSubframe cfg zones (shiftedBy x fBeat equi) e dataEnd equi fBeat j (cursor j) (cursor (j + 1)) f) →
            (∀ err : ErrCode, frames.length < planCount cfg →
              SubframeStops cfg zones (shiftedBy x fBeat equi) e dataEnd equi frames.length (cursor frames.length) err →
              fails err)
            ∧ (frames.length = planCount cfg →
              Config.bufMax < (frames.map fun f => f.y.length).sum
                ∨ Config.bufMax < (frames.map fun f => f.t.length).sum →
              fails .errRange))

/-- The subframe plan: ceil(num_symbols / Lsf) subframes, which is how many a RUN processes; min(Lsf,
num_symbols − j·Lsf) symbols to subframe j, at least one, num_symbols in all; one subframe with all the symbols when
subframing is off (R211, R212). -/
def Obligations.SubframePlan : Prop :=
  (∀ (R : Type) (cfg : CfgBank R), 1 ≤ cfg.numSymbols.toNat →
    (cfg.processSubframes = true → 1 ≤ cfg.subframeLength.toNat) →
    let n := cfg.numSymbols.toNat
    let Lsf := if cfg.processSubframes then cfg.subframeLength.toNat else n
    (subframeCount cfg : ℤ) = ⌈(n : ℚ) / Lsf⌉
    ∧ (∀ j : ℕ, j < subframeCount cfg →
        allotted cfg j = min Lsf (n - j * Lsf) ∧ 1 ≤ allotted cfg j)
    ∧ (∑ j ∈ Finset.range (subframeCount cfg), allotted cfg j) = n
    ∧ (cfg.processSubframes = false → subframeCount cfg = 1 ∧ allotted cfg 0 = n))
  ∧ ∀ (R : Type) (A : Arith R) (cfg : CfgBank R) (zones : List (R × R)) (cap : List (Cx R)) (o : RunOut R),
    A.run cfg zones cap = .ok o → o.frames.length = subframeCount cfg

/-- The clock abort over the exact reals (R207). -/
def Obligations.ClockAbortRule : Prop :=
  ∀ (v : Variant) (cfg : CfgBank ℝ) (st : Stage1 ℝ),
    let thr := cfg.abortClockThreshold
    let aborts := (v = .us ∨ v = .uu) ∧ 0 < thr ∧ thr < |st.equi - cfg.adcRate|
    let equi := @ite ℝ aborts (Classical.propDecidable _) cfg.adcRate st.equi
    (equi ≤ 0 → Arith.real.clockAbort v cfg st = .error .errNumeric)
    ∧ (0 < equi → equi / 2 ≤ cfg.toneCutoff → Arith.real.clockAbort v cfg st = .error .errArg)
    ∧ (0 < equi → cfg.toneCutoff < equi / 2 → ∃ (u : Stage1 ℝ) (ab : Bool),
      Arith.real.clockAbort v cfg st = .ok (u, ab) ∧ (ab = true ↔ aborts) ∧ u.equi = equi
      ∧ u.obs0 = st.obs0 ∧ u.obs1 = st.obs1
      ∧ (∀ f1, aborts → v = .uu → st.obs0 = some f1 → u.fBeat = f1 - cfg.pilotFreq0)
      ∧ (¬ aborts ∨ v = .us → u.fBeat = st.fBeat))

/-- The debug record is purely observational: what RUN computes does not depend on CFG_DEBUG, over any number
domain (60_exceptions.md R297, 45_pipeline.md R226). That the length check of R219 is the same for both values of
CFG_DEBUG is the model's reading (DEDUCED, log 7). -/
def Obligations.DebugOnlyObserves : Prop :=
  ∀ (R : Type) (A : Arith R) (cfg : CfgBank R) (zones : List (R × R)) (cap : List (Cx R)) (d : Bool),
    A.run { cfg with debug := d } zones cap = A.run cfg zones cap

/-! SPECIAL. -/

/-- SPECIAL completes when its checks hold, whatever SNAP_VALID says: both captures are de-shifted, filtered and
downsampled from offset 0, and SPECIAL_VALID is set (46_special_dsp.md R240, R241). -/
def Obligations.SpecialResult : Prop :=
  ∀ s : State,
    let b := s.snap.toReal
    let sps := b.equiRate / b.symbolRate
    let calibrated := fun (x y : List (Cx NUM)) =>
      y.length = (positionsOf x.length 0 sps).card
      ∧ ∀ k : ℕ, k < y.length → sampleAt y k =
        filteredBy sps b.rollOff b.symbolRate b.equiRate (shiftedBy (sampleAt x) b.freqShift b.equiRate)
          (posOf 0 sps k)
    s.snap.schema = 0#32 → 0 < b.symbolRate → 0 < b.equiRate → 0 ≤ b.rollOff → b.rollOff ≤ 1 →
    s.buf BufId.calE ≠ [] → s.buf BufId.calES ≠ [] →
    ((s.buf BufId.calE).length : ℤ) ≤ posOf 0 sps Config.bufMax →
    ((s.buf BufId.calES).length : ℤ) ≤ posOf 0 sps Config.bufMax →
    ∃ yE yES : List (Cx NUM),
      exec .special s = .next
        (({ s with status := { s.status with specialValid := true } }.withBuf BufId.spoE yE).withBuf
          BufId.spoES yES).finished
      ∧ calibrated (s.buf BufId.calE) yE ∧ calibrated (s.buf BufId.calES) yES

/-- SPECIAL is the chain FSHIFT, MFILT, DOWNSAMPLE of the primitive commands with the snapshot's values, from CAL_E
to SPO_E and from CAL_ES to SPO_ES (44_filter.md R192, 46_special_dsp.md R240). -/
def Obligations.SpecialIsTheChain : Prop :=
  ∀ (s t t1 t2 t3 : State) (src dst : BufId),
    (src = BufId.calE ∧ dst = BufId.spoE) ∨ (src = BufId.calES ∧ dst = BufId.spoES) →
    exec .special s = .next t → s.status.done = false → t.status.done = true →
    s.arg.freq = s.snap.freqShift → s.arg.rate = s.snap.equiRate → s.arg.start = 0#32 →
    s.arg.factor = numArith.div s.snap.equiRate s.snap.symbolRate →
    s.cfg.rollOff = s.snap.rollOff → s.cfg.symbolRate = s.snap.symbolRate →
    exec (.fshift BufId.w0 src) s = .next t1 →
    exec (.mfilt BufId.w1 BufId.w0) t1 = .next t2 → t2.errCode = 0#32 →
    exec (.downsample BufId.w2 BufId.w1) t2 = .next t3 → t3.errCode = 0#32 →
    t3.buf BufId.w2 = t.buf dst

/-! The host. -/

/-- Every register stands at its number, by name, and no other number is implemented, in every admissible instance
(20_memory.md R71, 10_state.md R24 to R33, 00_scope.md R4). -/
def Obligations.RegisterMap : Prop :=
  (∀ r : Reg, regAt r.number = some r) ∧ (∀ (n : ℕ) (r : Reg), regAt n = some r → r.number = n)
  ∧ (∀ n : ℕ, regAt n ≠ none ↔
      n ≤ 0x04 ∨ (0x10 ≤ n ∧ n ≤ 0x15) ∨ (0x20 ≤ n ∧ n ≤ 0x23) ∨ (0x40 ≤ n ∧ n ≤ 0x57)
      ∨ (0x80 ≤ n ∧ n ≤ 0x84) ∨ (0x90 ≤ n ∧ n ≤ 0x99) ∨ n = 0xA0 ∨ (0xC0 ≤ n ∧ n ≤ 0xCB)
      ∨ (0x100 ≤ n ∧ n < 0x100 + 2 * Config.maxExcl) ∨ (0x1000 ≤ n ∧ n < 0x1000 + Config.maxSf)
      ∨ (0x2000 ≤ n ∧ n < 0x2000 + Config.maxSf))
  ∧ 50 ≤ Config.bufMax ∧ Config.bufMax < 2 ^ 31 ∧ Config.maxExcl ≤ 1920 ∧ 1 ≤ Config.maxSf ∧ Config.maxSf ≤ 4096
  ∧ (∀ p ∈ [(Reg.id, 0x00), (.cmd, 0x01), (.status, 0x02), (.errCode, 0x03), (.errInfo, 0x04),
      (.argStart, 0x10), (.argFactor, 0x11), (.argFreq, 0x12), (.argRate, 0x13), (.argRepeat, 0x14),
      (.argGuard, 0x15), (.resI0, 0x20), (.resI1, 0x21), (.resN0, 0x22), (.resN1, 0x23)], p.1.number = p.2)
  ∧ (∀ p ∈ [(Reg.cfgSymbolRate, 0x40), (.cfgDacRate, 0x41), (.cfgAdcRate, 0x42), (.cfgNumSymbols, 0x43),
      (.cfgRollOff, 0x44), (.cfgFrequencyShift, 0x45), (.cfgNumPilots, 0x46), (.cfgPilotFreq0, 0x47),
      (.cfgPilotFreq1, 0x48), (.cfgSequenceRoot, 0x49), (.cfgSequenceLength, 0x4A), (.cfgSequenceRate, 0x4B),
      (.cfgClockShared, 0x4C), (.cfgLoShared, 0x4D), (.cfgProcessSubframes, 0x4E), (.cfgSubframeLength, 0x4F),
      (.cfgFirSize, 0x50), (.cfgToneCutoff, 0x51), (.cfgAbortClockThreshold, 0x52), (.cfgNumExcl, 0x53),
      (.cfgPhaseFilterSize, 0x54), (.cfgBeatSampleCount, 0x55), (.cfgDetectionSchema, 0x56), (.cfgDebug, 0x57)],
      p.1.number = p.2)
  ∧ (∀ p ∈ [(Reg.snapSymbolRate, 0x80), (.snapEquiRate, 0x81), (.snapRollOff, 0x82), (.snapFreqShift, 0x83),
      (.snapSchema, 0x84), (.dbgFields, 0x90), (.dbgSeqStart, 0x91), (.dbgSeqEnd, 0x92), (.dbgDataStart, 0x93),
      (.dbgDataEnd, 0x94), (.dbgFPilot0, 0x95), (.dbgFPilot1, 0x96), (.dbgFBeat, 0x97), (.dbgDeltaF, 0x98),
      (.dbgEquiRate, 0x99), (.sfCount, 0xA0)], p.1.number = p.2)
  ∧ (∀ b : BufId, (Reg.len b).number = 0xC0 + b.val)
  ∧ (∀ i : Fin Config.maxExcl, (Reg.exclLo i).number = 0x100 + 2 * i.val ∧ (Reg.exclHi i).number = 0x101 + 2 * i.val)
  ∧ ∀ j : Fin Config.maxSf, (Reg.sfLen j).number = 0x1000 + j.val ∧ (Reg.dbgTlen j).number = 0x2000 + j.val

/-- While a command runs, a read of a register 0x00 to 0x04 returns its value and changes nothing else; every other
access sets HOSTVIOL and changes nothing else, and a refused read returns 0 (R64, R68, R75). That this is the 0 of the
register's type is the model's choice (log 8). STATUS has its flags at the bits of 10_state.md R23, BUSY among them, and
0 above. -/
def Obligations.BusyRefusesHost : Prop :=
  ∀ s : State, s.status.busy = true →
    let refused := { s with status := { s.status with hostViol := true } }
    (∀ n : ℕ, n ≤ 4 → ∃ r : Reg, regAt n = some r ∧ s.hostAccess (.regRead n) = { s with answer := r.read s })
    ∧ (∃ w : Word, Reg.read s .status = .word w ∧ w.getLsbD 0 = true
      ∧ ∀ k : ℕ, w.getLsbD k = s.status.bits.getD k false)
    ∧ (∀ (n : ℕ) (r : Reg), 4 < n → regAt n = some r → s.hostAccess (.regRead n) =
        { refused with answer := (match r.read s with | .num _ => .num (.rat 0) | _ => .word 0#32) })
    ∧ (∀ n : ℕ, regAt n = none → s.hostAccess (.regRead n) = { refused with answer := .word 0#32 })
    ∧ (∀ (n : ℕ) (w : Word) (x : NUM), s.hostAccess (.regWrite n w x) = refused)
    ∧ (∀ n : ℕ, s.hostAccess (.regCopy n) = refused)
    ∧ (∀ b i : ℕ, s.hostAccess (.bufRead b i) = { refused with answer := .elem ⟨.rat 0, .rat 0⟩ })
    ∧ ∀ (b i : ℕ) (v : Cx NUM), s.hostAccess (.bufWrite b i v) = refused

/-- A read by an idle host returns the value and has no side effect; a read of a number that is not
implemented or of an element that does not exist is refused and returns 0 (R62, R64, R68, R70), for such a number the
word 0 by the model's choice (log 8). Each register number reads the piece of state that R24 to R33 of 10_state.md put
there, a BOOL as 0 or 1, and STATUS has the flags of R23 at its bits 0 to 10 and 0 above. -/
def Obligations.IdleReads : Prop :=
  ∀ s : State, s.status.busy = false →
    let reads := fun (n : ℕ) (v : HostAnswer) => s.hostAccess (.regRead n) = { s with answer := v }
    let bool := fun b : Bool => HostAnswer.word (if b then 1#32 else 0#32)
    (∀ (n : ℕ) (r : Reg), regAt n = some r → reads n (r.read s))
    ∧ (∀ n : ℕ, regAt n = none → s.hostAccess (.regRead n) =
        { s with status := { s.status with hostViol := true }, answer := .word 0#32 })
    ∧ (∀ (b : BufId) (i : ℕ) (c : Cx NUM), (s.buf b)[i]? = some c →
        s.hostAccess (.bufRead b.val i) = { s with answer := .elem c })
    ∧ (∀ b i : ℕ, (∀ c : BufId, c.val = b → (s.buf c).length ≤ i) → s.hostAccess (.bufRead b i) =
        { s with status := { s.status with hostViol := true }, answer := .elem ⟨.rat 0, .rat 0⟩ })
    ∧ (reads 0x00 (.word 0x51420001#32) ∧ reads 0x01 (.word 0#32) ∧ reads 0x02 (.word s.status.word)
      ∧ (∀ k : ℕ, s.status.word.getLsbD k = s.status.bits.getD k false)
      ∧ reads 0x03 (.word s.errCode) ∧ reads 0x04 (.word s.errInfo))
    ∧ (reads 0x10 (.word s.arg.start) ∧ reads 0x11 (.num s.arg.factor) ∧ reads 0x12 (.num s.arg.freq)
      ∧ reads 0x13 (.num s.arg.rate) ∧ reads 0x14 (.word s.arg.repeats) ∧ reads 0x15 (.num s.arg.guard))
    ∧ (reads 0x20 (.word s.res.i0) ∧ reads 0x21 (.word s.res.i1) ∧ reads 0x22 (.num s.res.n0)
      ∧ reads 0x23 (.num s.res.n1))
    ∧ (reads 0x40 (.num s.cfg.symbolRate) ∧ reads 0x41 (.num s.cfg.dacRate) ∧ reads 0x42 (.num s.cfg.adcRate)
      ∧ reads 0x43 (.word s.cfg.numSymbols) ∧ reads 0x44 (.num s.cfg.rollOff) ∧ reads 0x45 (.num s.cfg.frequencyShift)
      ∧ reads 0x46 (.word s.cfg.numPilots) ∧ reads 0x47 (.num s.cfg.pilotFreq0) ∧ reads 0x48 (.num s.cfg.pilotFreq1)
      ∧ reads 0x49 (.word s.cfg.sequenceRoot) ∧ reads 0x4A (.word s.cfg.sequenceLength)
      ∧ reads 0x4B (.num s.cfg.sequenceRate) ∧ reads 0x4C (bool s.cfg.clockShared) ∧ reads 0x4D (bool s.cfg.loShared)
      ∧ reads 0x4E (bool s.cfg.processSubframes) ∧ reads 0x4F (.word s.cfg.subframeLength)
      ∧ reads 0x50 (.word s.cfg.firSize) ∧ reads 0x51 (.num s.cfg.toneCutoff)
      ∧ reads 0x52 (.num s.cfg.abortClockThreshold) ∧ reads 0x53 (.word s.cfg.numExcl)
      ∧ reads 0x54 (.word s.cfg.phaseFilterSize) ∧ reads 0x55 (.word s.cfg.beatSampleCount)
      ∧ reads 0x56 (.word s.cfg.detectionSchema) ∧ reads 0x57 (bool s.cfg.debug))
    ∧ (reads 0x80 (.num s.snap.symbolRate) ∧ reads 0x81 (.num s.snap.equiRate) ∧ reads 0x82 (.num s.snap.rollOff)
      ∧ reads 0x83 (.num s.snap.freqShift) ∧ reads 0x84 (.word s.snap.schema))
    ∧ (reads 0x90 (.word s.dbg.fields) ∧ reads 0x91 (.word s.dbg.seqStart) ∧ reads 0x92 (.word s.dbg.seqEnd)
      ∧ reads 0x93 (.word s.dbg.dataStart) ∧ reads 0x94 (.word s.dbg.dataEnd) ∧ reads 0x95 (.num s.dbg.fPilot0)
      ∧ reads 0x96 (.num s.dbg.fPilot1) ∧ reads 0x97 (.num s.dbg.fBeat) ∧ reads 0x98 (.num s.dbg.deltaF)
      ∧ reads 0x99 (.num s.dbg.equiRate))
    ∧ reads 0xA0 (.word s.sfCount) ∧ (∀ b : BufId, reads (0xC0 + b.val) (.word (BitVec.ofNat 32 (s.buf b).length)))
    ∧ (∀ i : ℕ, i < Config.maxExcl → reads (0x100 + 2 * i) (.num (s.exclLo.getD i (.rat 0)))
      ∧ reads (0x101 + 2 * i) (.num (s.exclHi.getD i (.rat 0))))
    ∧ ∀ j : ℕ, j < Config.maxSf → reads (0x1000 + j) (.word (s.sfLen.getD j 0#32))
      ∧ reads (0x2000 + j) (.word (s.dbgTlen.getD j 0#32))

/-- A write by an idle host of a configuration or argument register or an exclusion zone replaces its value (bit
0 of a BOOL) and nothing else; a write of a snapshot register also clears SNAP_VALID, and nothing else changes; a write
of a read-only register or of a number that is not implemented sets HOSTVIOL and nothing else (R65, R68, R28, R30). The
write half of MOV carries what the last read returned (30_encoding.md R91). A write drives two typed ports by the
model's choice (log 8). -/
def Obligations.RegisterWrite : Prop :=
  ∀ (s : State) (w : Word) (x : NUM), s.status.busy = false →
    (∀ r : Reg,
      ((0x10 ≤ r.number ∧ r.number ≤ 0x15) ∨ (0x40 ≤ r.number ∧ r.number ≤ 0x57)
        ∨ (0x100 ≤ r.number ∧ r.number < 0x100 + 2 * Config.maxExcl)) →
      (∀ r' : Reg, r' ≠ r → r'.read (s.hostAccess (.regWrite r.number w x)) = r'.read s)
      ∧ (match r.read s with
        | .num _ => r.read (s.hostAccess (.regWrite r.number w x)) = .num x
        | _ =>
          r.read (s.hostAccess (.regWrite r.number w x)) =
            if r = .cfgClockShared ∨ r = .cfgLoShared ∨ r = .cfgProcessSubframes ∨ r = .cfgDebug then
              .word (w &&& 1#32) else .word w)
      ∧ (s.hostAccess (.regWrite r.number w x)).mem = s.mem)
    ∧ s.hostAccess (.regWrite 0x80 w x) = { s with
      snap := { s.snap with symbolRate := x }, status := { s.status with snapValid := false } }
    ∧ s.hostAccess (.regWrite 0x81 w x) = { s with
      snap := { s.snap with equiRate := x }, status := { s.status with snapValid := false } }
    ∧ s.hostAccess (.regWrite 0x82 w x) = { s with
      snap := { s.snap with rollOff := x }, status := { s.status with snapValid := false } }
    ∧ s.hostAccess (.regWrite 0x83 w x) = { s with
      snap := { s.snap with freqShift := x }, status := { s.status with snapValid := false } }
    ∧ s.hostAccess (.regWrite 0x84 w x) = { s with
      snap := { s.snap with schema := w }, status := { s.status with snapValid := false } }
    ∧ (∀ n : ℕ, n = 0x00 ∨ (0x02 ≤ n ∧ n ≤ 0x04) ∨ (0x20 ≤ n ∧ n ≤ 0x23) ∨ (0x90 ≤ n ∧ n ≤ 0x99) ∨ n = 0xA0
        ∨ (0xC7 ≤ n ∧ n ≤ 0xCB) ∨ 0x1000 ≤ n ∨ regAt n = none →
      s.hostAccess (.regWrite n w x) = { s with status := { s.status with hostViol := true } })
    ∧ (∀ r : Reg, s.answer = .word w → s.hostAccess (.regCopy r.number) = s.hostAccess (.regWrite r.number w (.rat 0)))
    ∧ ∀ r : Reg, s.answer = .num x → s.hostAccess (.regCopy r.number) = s.hostAccess (.regWrite r.number 0#32 x)

/-- A write of a length register of buffers 0 to 6 keeps the old elements, sets new ones to 0 and changes no
other buffer; a length above BUF_MAX or a buffer 7 to 11 is refused (R33, R68). -/
def Obligations.LengthWrite : Prop :=
  ∀ (s : State) (b : BufId) (w : Word) (x : NUM), s.status.busy = false →
    (b.val ≤ 6 → w.toNat ≤ Config.bufMax →
      ((s.hostAccess (.regWrite (0xC0 + b.val) w x)).buf b).length = w.toNat
      ∧ (∀ i : ℕ, i < w.toNat → ((s.hostAccess (.regWrite (0xC0 + b.val) w x)).buf b)[i]? =
          some ((s.buf b).getD i ⟨.rat 0, .rat 0⟩))
      ∧ (∀ c : BufId, c ≠ b → (s.hostAccess (.regWrite (0xC0 + b.val) w x)).buf c = s.buf c)
      ∧ { s.hostAccess (.regWrite (0xC0 + b.val) w x) with mem := s.mem } = s)
    ∧ (7 ≤ b.val ∨ Config.bufMax < w.toNat → s.hostAccess (.regWrite (0xC0 + b.val) w x) =
        { s with status := { s.status with hostViol := true } })

/-- A buffer write to an existing element of the buffers 0 to 6, while no command runs, replaces that element and
nothing else; any other buffer write is refused and sets HOSTVIOL alone (R63, R68). -/
def Obligations.BufferWrite : Prop :=
  ∀ (s : State) (b i : ℕ) (v : Cx NUM),
    (s.status.busy = false → (∃ c : BufId, c.val = b ∧ b ≤ 6 ∧ i < (s.buf c).length) →
      (∀ c j : ℕ, (s.hostAccess (.bufWrite b i v)).mem.read c j =
        if c = b ∧ j = i then some v else s.mem.read c j)
      ∧ { s.hostAccess (.bufWrite b i v) with mem := s.mem } = s)
    ∧ (s.status.busy = true ∨ (¬ ∃ c : BufId, c.val = b ∧ b ≤ 6 ∧ i < (s.buf c).length) →
      s.hostAccess (.bufWrite b i v) = { s with status := { s.status with hostViol := true } })

/-! The numeric primitives over the exact reals. -/

/-- The least-squares slope of a sequence that lies on a line is the line's slope (R12). -/
def Obligations.SlopeOfLine : Prop :=
  ∀ (t : List ℝ) (a b : ℝ), (∃ x ∈ t, ∃ y ∈ t, x ≠ y) →
    Arith.real.slope t (t.map fun x => a * x + b) = a

/-! The number domain of the machine. -/

/-- Every enclosure that the machine computes for a term holds the exact real number of the term (log 1,
log 2; 00_scope.md R13). -/
def Obligations.EnclosureHolds : Prop :=
  ∀ (x : NUM) (e : Encl), enclose x = some e →
    (e.lo : ℝ) ≤ x.toReal * 2 ^ 80 ∧ x.toReal * 2 ^ 80 ≤ (e.hi : ℝ)

/-- The order and the integer part of the machine are those of the exact real numbers, for every two terms: equal
numbers in different terms included (R13; how they are evaluated is log 2). -/
def Obligations.ComparisonsExact : Prop :=
  (∀ a b : NUM, NUM.lt a b = true ↔ a.toReal < b.toReal) ∧ ∀ a : NUM, a.floor = ⌊a.toReal⌋

/-- Every numeric rule on the machine's terms is the same rule on the exact reals (R13): the numbers of the result
are the result on the numbers, and the errors are the same. -/
def Obligations.TermsAreReals : Prop :=
  (∀ (α : Type) (zero : α) (d : List α) (start : ℕ) (f : NUM),
    numArith.downsample zero d start f = Arith.real.downsample zero d start f.toReal)
  ∧ (∀ (d : List (Cx NUM)) (f : NUM), numArith.bestpoint d f = Arith.real.bestpoint (valuesOf d) f.toReal)
  ∧ (∀ (u L q : ℕ), valuesOf (numArith.reference u L q) = Arith.real.reference u L q)
  ∧ (∀ (x : List (Cx NUM)) (u L q : ℕ), numArith.sync x u L q = Arith.real.sync (valuesOf x) u L q)
  ∧ (∀ (x : List (Cx NUM)) (rate : NUM) (zones : List (NUM × NUM)),
    (numArith.find1 x rate zones).map NUM.toReal = Arith.real.find1 (valuesOf x) rate.toReal (zoneValues zones))
  ∧ (∀ (x : List (Cx NUM)) (rate G : NUM) (zones : List (NUM × NUM)),
    (numArith.find2 x rate zones G).map (fun f => (f.1.toReal, f.2.toReal)) =
      Arith.real.find2 (valuesOf x) rate.toReal (zoneValues zones) G.toReal)
  ∧ (∀ (x : List (Cx NUM)) (f0 fs : NUM) (T : ℕ) (fc : NUM),
    (numArith.tone x f0 fs T fc).map valuesOf = Arith.real.tone (valuesOf x) f0.toReal fs.toReal T fc.toReal)
  ∧ (∀ (x : List (Cx NUM)) (f fs : NUM) (T : ℕ) (fc : NUM),
    (numArith.eqrate x f fs T fc).map (fun r => (r.1.toReal, r.2.toReal)) =
      Arith.real.eqrate (valuesOf x) f.toReal fs.toReal T fc.toReal)
  ∧ (∀ (t : List (Cx NUM)) (f fs : NUM) (W : ℕ),
    (numArith.phnoise t f fs W).map NUM.toReal = Arith.real.phnoise (valuesOf t) f.toReal fs.toReal W)
  ∧ (∀ (y : List (Cx NUM)) (φ : List NUM) (start : ℕ) (f : NUM),
    (numArith.phcorr y φ start f).map valuesOf =
      Arith.real.phcorr (valuesOf y) (φ.map NUM.toReal) start f.toReal)
  ∧ (∀ (x : List (Cx NUM)) (f fs : NUM),
    valuesOf (numArith.fshift x f fs) = Arith.real.fshift (valuesOf x) f.toReal fs.toReal)
  ∧ (∀ (x : List (Cx NUM)) (sps β Rs fs : NUM),
    valuesOf (numArith.mfilt x sps β Rs fs) =
      Arith.real.mfilt (valuesOf x) sps.toReal β.toReal Rs.toReal fs.toReal)
  ∧ (∀ (cfg : CfgBank NUM) (zones : List (NUM × NUM)) (cap : List (Cx NUM)),
    (numArith.run cfg zones cap).map RunOut.toReal =
      Arith.real.run cfg.toReal (zoneValues zones) (valuesOf cap))
  ∧ ∀ (snap : SnapBank NUM) (calE calES : List (Cx NUM)),
    (numArith.special snap calE calES).map (fun y => (valuesOf y.1, valuesOf y.2)) =
      Arith.real.special snap.toReal (valuesOf calE) (valuesOf calES)
end

