-- ==== Sys2Proof/Laws/Config.lean ====
section
/-! SUPPORT. The constraints on the parameters (00_scope.md R4, 20_memory.md R71), and that every admissible
choice of them is an instance of the model. -/

namespace Sys2Proof

theorem Config.bufMax_ge : 50 ≤ Config.bufMax := Nat.le_add_left _ _

theorem Config.bufMax_lt : Config.bufMax < 2 ^ 31 := by
  have := Config.capacities.bufMaxAbove.isLt
  unfold Config.bufMax
  omega

theorem Config.maxExcl_le : Config.maxExcl ≤ 1920 := Nat.le_of_lt_succ Config.capacities.exclEntries.isLt

theorem Config.maxSf_pos : 1 ≤ Config.maxSf := Nat.le_add_left _ _

theorem Config.maxSf_le : Config.maxSf ≤ 4096 := Config.capacities.sfAbove.isLt

/-- Every admissible choice of the three parameters is a value of the record. -/
theorem Config.Capacities.exists_of_admissible (bufMax maxExcl maxSf : Nat) (h1 : 50 ≤ bufMax) (h2 : bufMax < 2 ^ 31)
    (h3 : maxExcl ≤ 1920) (h4 : 1 ≤ maxSf) (h5 : maxSf ≤ 4096) :
    ∃ c : Config.Capacities, c.bufMaxAbove.val + 50 = bufMax ∧ c.exclEntries.val = maxExcl
      ∧ c.sfAbove.val + 1 = maxSf :=
  ⟨⟨⟨bufMax - 50, by omega⟩, ⟨maxExcl, by omega⟩, ⟨maxSf - 1, by omega⟩⟩,
    Nat.sub_add_cancel h1, rfl, Nat.sub_add_cancel h4⟩

end Sys2Proof
end

