-- ==== Sys2Proof/Laws/Enclosure.lean ====
section
/-! SUPPORT. Every enclosure of Machine/Enclosure.lean holds the number that its term stands for: one lemma
per operation on intervals. -/

namespace Sys2Proof.Machine

/-- The unit of the grid as a real number. -/
abbrev gridUnit : ℝ := 2 ^ 80

theorem gridUnit_pos : (0 : ℝ) < gridUnit := by norm_num [gridUnit]

theorem encScale_cast : (encScale : ℝ) = gridUnit := by norm_num [encScale, gridUnit]

theorem encScale_pos : 0 < encScale := by decide

/-- The interval holds the number. -/
def Encl.Holds (e : Encl) (x : ℝ) : Prop := (e.lo : ℝ) ≤ x * gridUnit ∧ x * gridUnit ≤ e.hi

theorem ediv_le_div (a b : ℤ) (hb : 0 < b) : ((a / b : ℤ) : ℝ) ≤ (a : ℝ) / b := by
  rw [le_div_iff₀ (by exact_mod_cast hb)]
  exact_mod_cast Int.ediv_mul_le a hb.ne'

theorem div_le_ceilDiv (a b : ℤ) (hb : 0 < b) : (a : ℝ) / b ≤ (ceilDiv a b : ℤ) := by
  have h := ediv_le_div (-a) b hb
  unfold ceilDiv
  push_cast at h ⊢
  rw [neg_div] at h
  linarith

theorem Encl.Holds.ofRat (q : Rat) : (Encl.ofRat q).Holds q := by
  have hd : (0 : ℤ) < (q.den : ℤ) := by exact_mod_cast q.den_pos
  have e : (q : ℝ) * gridUnit = ((q.num * encScale : ℤ) : ℝ) / ((q.den : ℤ) : ℝ) := by
    push_cast
    rw [encScale_cast, Rat.cast_def]
    ring
  exact ⟨e ▸ ediv_le_div _ _ hd, e ▸ div_le_ceilDiv _ _ hd⟩

theorem Encl.Holds.ofInt (n : ℤ) : (Encl.ofInt n).Holds n := by
  constructor <;> simp [Encl.ofInt, encScale_cast]

variable {a b : Encl} {x y : ℝ}

theorem Encl.Holds.neg (ha : a.Holds x) : a.neg.Holds (-x) := by
  obtain ⟨h1, h2⟩ := ha
  constructor <;> simp only [Encl.neg, Int.cast_neg] <;> linarith

theorem Encl.Holds.add (ha : a.Holds x) (hb : b.Holds y) : (a.add b).Holds (x + y) := by
  obtain ⟨h1, h2⟩ := ha
  obtain ⟨h3, h4⟩ := hb
  constructor <;> simp only [Encl.add, Int.cast_add] <;> linarith

theorem Encl.Holds.sub (ha : a.Holds x) (hb : b.Holds y) : (a.sub b).Holds (x - y) := by
  rw [sub_eq_add_neg]
  exact ha.add hb.neg

/-- A product lies between the products with the ends of an interval. -/
theorem mul_between {l h u v : ℝ} (h1 : l ≤ u) (h2 : u ≤ h) : min (l * v) (h * v) ≤ u * v ∧ u * v ≤ max (l * v) (h * v) := by
  rcases le_total 0 v with hv | hv
  · exact ⟨min_le_of_left_le (mul_le_mul_of_nonneg_right h1 hv), le_max_of_le_right (mul_le_mul_of_nonneg_right h2 hv)⟩
  · exact ⟨min_le_of_right_le (mul_le_mul_of_nonpos_right h2 hv), le_max_of_le_left (mul_le_mul_of_nonpos_right h1 hv)⟩

theorem Encl.Holds.mul (ha : a.Holds x) (hb : b.Holds y) : (a.mul b).Holds (x * y) := by
  obtain ⟨h1, h2⟩ := ha
  obtain ⟨h3, h4⟩ := hb
  have hg := gridUnit_pos
  have e : x * y * gridUnit = ((x * gridUnit) * (y * gridUnit)) / (encScale : ℝ) := by
    rw [encScale_cast]; field_simp
  have o := mul_between (v := y * gridUnit) h1 h2
  have i1 := mul_between (v := (a.lo : ℝ)) h3 h4
  have i2 := mul_between (v := (a.hi : ℝ)) h3 h4
  simp only [mul_comm _ (a.lo : ℝ), mul_comm _ (a.hi : ℝ)] at i1 i2
  refine ⟨?_, ?_⟩
  · refine (ediv_le_div _ _ encScale_pos).trans ?_
    rw [e]
    refine div_le_div_of_nonneg_right ?_ (by rw [encScale_cast]; exact hg.le)
    refine le_trans ?_ o.1
    push_cast
    exact min_le_min i1.1 i2.1
  · refine le_trans ?_ (div_le_ceilDiv _ _ encScale_pos)
    rw [e]
    refine div_le_div_of_nonneg_right ?_ (by rw [encScale_cast]; exact hg.le)
    refine o.2.trans ?_
    push_cast
    exact max_le_max i1.2 i2.2

theorem Encl.Holds.mulInt (n : ℤ) (ha : a.Holds x) : (Encl.mulInt n a).Holds (n * x) := by
  obtain ⟨h1, h2⟩ := ha
  unfold Encl.mulInt
  split
  · rename_i hn
    have hn' : (0 : ℝ) ≤ n := by exact_mod_cast hn
    constructor <;> push_cast <;> nlinarith
  · rename_i hn
    have hn' : (n : ℝ) ≤ 0 := by exact_mod_cast (not_le.mp hn).le
    constructor <;> push_cast <;> nlinarith

theorem Encl.Holds.divNat (n : ℕ) (hn : 0 < n) (ha : a.Holds x) : (a.divNat n).Holds (x / n) := by
  obtain ⟨h1, h2⟩ := ha
  have hz : (0 : ℤ) < (n : ℤ) := by exact_mod_cast hn
  have hr : (0 : ℝ) < (n : ℝ) := by exact_mod_cast hn
  have e : x / n * gridUnit = x * gridUnit / n := by ring
  refine ⟨(ediv_le_div _ _ hz).trans ?_, le_trans ?_ (div_le_ceilDiv _ _ hz)⟩ <;> rw [e] <;> push_cast
  · exact div_le_div_of_nonneg_right h1 hr.le
  · exact div_le_div_of_nonneg_right h2 hr.le

theorem Encl.Holds.invPos (hp : 0 < a.lo) (ha : a.Holds x) : a.invPos.Holds x⁻¹ := by
  obtain ⟨h1, h2⟩ := ha
  have hg := gridUnit_pos
  have hl : (0 : ℝ) < a.lo := by exact_mod_cast hp
  have hx : 0 < x * gridUnit := lt_of_lt_of_le hl h1
  have hx0 : 0 < x := by
    by_contra h
    exact absurd hx (not_lt.mpr (mul_nonpos_of_nonpos_of_nonneg (not_lt.mp h) hg.le))
  have hh : (0 : ℝ) < a.hi := lt_of_lt_of_le hx h2
  have e : x⁻¹ * gridUnit = gridUnit * gridUnit / (x * gridUnit) := by field_simp
  refine ⟨(ediv_le_div _ _ (by exact_mod_cast hh)).trans ?_, le_trans ?_ (div_le_ceilDiv _ _ hp)⟩ <;> rw [e] <;>
    push_cast <;> rw [encScale_cast]
  · exact div_le_div_of_nonneg_left (by positivity) hx h2
  · exact div_le_div_of_nonneg_left (by positivity) hl h1

theorem Encl.Holds.div {e : Encl} (ha : a.Holds x) (hb : b.Holds y) (h : a.div b = some e) : e.Holds (x / y) := by
  unfold Encl.div at h
  split at h
  · cases h
    rw [div_eq_mul_inv]
    exact ha.mul (hb.invPos ‹_›)
  · split at h
    · cases h
      rw [← neg_div_neg_eq, div_eq_mul_inv]
      exact ha.neg.mul (hb.neg.invPos (by simp only [Encl.neg]; omega))
    · cases h

/-! The square root. -/

theorem isqrtGo_spec (n k r : ℕ) (h1 : r ^ 2 ≤ n) (h2 : n < (r + 2 ^ k) ^ 2) :
    isqrtGo n k r ^ 2 ≤ n ∧ n < (isqrtGo n k r + 1) ^ 2 := by
  induction k generalizing r with
  | zero => exact ⟨h1, by simpa [isqrtGo] using h2⟩
  | succ k ih =>
    unfold isqrtGo
    split
    · rename_i h
      exact ih _ h (by rw [pow_succ] at h2; convert h2 using 2; ring)
    · rename_i h
      exact ih _ h1 (not_le.mp h)

theorem isqrt_spec (n : ℕ) : isqrt n ^ 2 ≤ n ∧ n < (isqrt n + 1) ^ 2 := by
  refine isqrtGo_spec n _ 0 (by simp) ?_
  rw [zero_add, ← pow_mul]
  refine lt_of_lt_of_le Nat.lt_log2_self (Nat.pow_le_pow_right (by norm_num) ?_)
  omega

theorem isqrt_le_sqrt (n : ℕ) : (isqrt n : ℝ) ≤ Real.sqrt n :=
  Real.le_sqrt_of_sq_le (by exact_mod_cast (isqrt_spec n).1)

theorem sqrt_le_isqrt (n : ℕ) : Real.sqrt n ≤ ((isqrt n + 1 : ℕ) : ℝ) := by
  rw [Real.sqrt_le_left (by positivity)]
  exact_mod_cast (isqrt_spec n).2.le

theorem Encl.Holds.sqrt (ha : a.Holds x) : a.sqrt.Holds (Real.sqrt x) := by
  obtain ⟨h1, h2⟩ := ha
  have hg := gridUnit_pos
  have e : Real.sqrt x * gridUnit = Real.sqrt (x * gridUnit * gridUnit) := by
    rw [mul_assoc, Real.sqrt_mul' x (by positivity), Real.sqrt_mul_self hg.le]
  have hs : ((encScale.toNat : ℕ) : ℝ) = gridUnit := by
    rw [← encScale_cast, ← Int.cast_natCast, Int.toNat_of_nonneg encScale_pos.le]
  constructor
  · refine le_trans (b := ((isqrt (a.lo.toNat * encScale.toNat) : ℕ) : ℝ)) (by simp [Encl.sqrt]) ?_
    refine (isqrt_le_sqrt _).trans ?_
    rw [e]
    push_cast
    rw [hs]
    rcases le_total 0 a.lo with hl | hl
    · refine Real.sqrt_le_sqrt (mul_le_mul_of_nonneg_right ?_ hg.le)
      have : ((a.lo.toNat : ℤ) : ℝ) = a.lo := by rw [Int.toNat_of_nonneg hl]
      rw [← Int.cast_natCast, this]
      exact h1
    · rw [Int.toNat_of_nonpos hl]; simp
  · refine le_trans (b := ((isqrt (a.hi.toNat * encScale.toNat) + 1 : ℕ) : ℝ)) ?_ (by simp [Encl.sqrt])
    refine le_trans ?_ (sqrt_le_isqrt _)
    rw [e]
    push_cast
    rw [hs]
    refine Real.sqrt_le_sqrt (mul_le_mul_of_nonneg_right (h2.trans ?_) hg.le)
    exact_mod_cast Int.self_le_toNat a.hi

/-! The circle constant. -/

theorem Encl.Holds.pi : Encl.pi.Holds Real.pi := by
  have hg := gridUnit_pos
  have h1 := Real.pi_gt_d20
  have h2 := Real.pi_lt_d20
  refine ⟨(ediv_le_div _ _ (by norm_num)).trans ?_, le_trans ?_ (div_le_ceilDiv _ _ (by norm_num))⟩ <;>
    push_cast <;> rw [encScale_cast]
  · rw [div_le_iff₀ (by norm_num)]; nlinarith
  · rw [le_div_iff₀ (by norm_num)]; nlinarith

theorem Encl.Holds.halfPi : Encl.halfPi.Holds (Real.pi / 2) := by
  exact_mod_cast Encl.Holds.pi.divNat 2 (by norm_num)

/-! Cosine and sine. -/

/-- The Taylor polynomial that `Encl.horner` evaluates. -/
noncomputable def hornerReal (z : ℝ) : List ℕ → ℝ
  | [] => 1
  | f :: fs => 1 - z / f * hornerReal z fs

theorem Encl.Holds.horner {z : ℝ} (hz : a.Holds z) (fs : List ℕ) (h : ∀ f ∈ fs, 0 < f) :
    (a.horner fs).Holds (hornerReal z fs) := by
  induction fs with
  | nil => exact_mod_cast Encl.Holds.ofInt 1
  | cons f fs ih =>
    have h1 : (Encl.ofInt 1).Holds (1 : ℝ) := by exact_mod_cast Encl.Holds.ofInt 1
    exact h1.sub ((hz.divNat f (h f (by simp))).mul (ih fun g hg => h g (by simp [hg])))

theorem Encl.Holds.widen (ha : a.Holds x) (n : ℤ) (h : |y - x| * gridUnit ≤ n) : (a.widen n).Holds y := by
  obtain ⟨h1, h2⟩ := ha
  have hg := gridUnit_pos
  have h3 := abs_le.mp (le_refl |y - x|)
  constructor <;> simp only [Encl.widen] <;> push_cast <;> nlinarith

/-- The first terms of the exponential series at an imaginary number, split into the two series. -/
theorem exp_series_split (y : ℝ) (k : ℕ) :
    (∑ m ∈ Finset.range (2 * k), ((y : ℂ) * Complex.I) ^ m / (m.factorial : ℂ)) =
      ((∑ j ∈ Finset.range k, (-1) ^ j * y ^ (2 * j) / ((2 * j).factorial : ℝ) : ℝ) : ℂ)
      + ((∑ j ∈ Finset.range k, (-1) ^ j * y ^ (2 * j + 1) / ((2 * j + 1).factorial : ℝ) : ℝ) : ℂ) * Complex.I := by
  induction k with
  | zero => simp
  | succ k ih =>
    rw [show 2 * (k + 1) = 2 * k + 1 + 1 from rfl, Finset.sum_range_succ, Finset.sum_range_succ, ih,
      Finset.sum_range_succ, Finset.sum_range_succ]
    have e1 : ((y : ℂ) * Complex.I) ^ (2 * k) = (-1) ^ k * (y : ℂ) ^ (2 * k) := by
      rw [mul_pow, pow_mul Complex.I, Complex.I_sq, mul_comm]
    rw [pow_succ, e1]
    push_cast
    ring

theorem cos_sin_error (y : ℝ) (hy : |y| ≤ 1) :
    |Real.cos y - ∑ j ∈ Finset.range 13, (-1) ^ j * y ^ (2 * j) / ((2 * j).factorial : ℝ)| ≤ 1 / 2 ^ 80
    ∧ |Real.sin y - ∑ j ∈ Finset.range 13, (-1) ^ j * y ^ (2 * j + 1) / ((2 * j + 1).factorial : ℝ)| ≤ 1 / 2 ^ 80 := by
  have hn : ‖(y : ℂ) * Complex.I‖ ≤ 1 := by simpa using hy
  have hb := Complex.exp_bound hn (n := 2 * 13) (by norm_num)
  rw [exp_series_split, Complex.exp_mul_I] at hb
  have hc : ‖(y : ℂ) * Complex.I‖ ^ (2 * 13) * ((Nat.succ (2 * 13) : ℕ) * (((2 * 13).factorial : ℕ) * ((2 * 13 : ℕ) : ℝ))⁻¹)
      ≤ 1 / 2 ^ 80 := by
    refine le_trans (mul_le_of_le_one_left (by positivity) (pow_le_one₀ (norm_nonneg _) hn)) ?_
    norm_num [Nat.factorial]
  have hb2 := hb.trans hc
  constructor
  · refine le_trans ?_ hb2
    refine le_trans (le_of_eq ?_) (Complex.abs_re_le_norm _)
    simp [Complex.cos_ofReal_re, Complex.sin_ofReal_im, -Complex.ofReal_sum, -Complex.ofReal_cos, -Complex.ofReal_sin]
  · refine le_trans ?_ hb2
    refine le_trans (le_of_eq ?_) (Complex.abs_im_le_norm _)
    simp [Complex.cos_ofReal_im, Complex.sin_ofReal_re, -Complex.ofReal_sum, -Complex.ofReal_cos, -Complex.ofReal_sin]

theorem cos_horner (y : ℝ) :
    hornerReal (y * y) cosFactors = ∑ j ∈ Finset.range 13, (-1) ^ j * y ^ (2 * j) / ((2 * j).factorial : ℝ) := by
  simp [hornerReal, cosFactors, Finset.sum_range_succ, Nat.factorial]
  ring

theorem sin_horner (y : ℝ) :
    y * hornerReal (y * y) sinFactors
      = ∑ j ∈ Finset.range 13, (-1) ^ j * y ^ (2 * j + 1) / ((2 * j + 1).factorial : ℝ) := by
  simp [hornerReal, sinFactors, Finset.sum_range_succ, Nat.factorial]
  ring

theorem Encl.Holds.cosSinSmall (ha : a.Holds y) (hy : |y| ≤ 1) :
    a.cosSinSmall.1.Holds (Real.cos y) ∧ a.cosSinSmall.2.Holds (Real.sin y) := by
  have he := cos_sin_error y hy
  rw [← cos_horner, ← sin_horner] at he
  have hg : gridUnit = 2 ^ 80 := rfl
  have h2 := ha.mul ha
  constructor
  · refine (h2.horner cosFactors (by decide)).widen 1 ?_
    have := he.1
    rw [le_div_iff₀ (by norm_num)] at this
    simpa [hg] using this
  · refine (ha.mul (h2.horner sinFactors (by decide))).widen 1 ?_
    have := he.2
    rw [le_div_iff₀ (by norm_num)] at this
    simpa [hg] using this

theorem Encl.Holds.abs_le_one (ha : a.Holds y) (h : -encScale ≤ a.lo ∧ a.hi ≤ encScale) : |y| ≤ 1 := by
  obtain ⟨h1, h2⟩ := ha
  have hg := gridUnit_pos
  have h3 : (-gridUnit : ℝ) ≤ a.lo := by rw [← encScale_cast]; exact_mod_cast h.1
  have h4 : (a.hi : ℝ) ≤ gridUnit := by rw [← encScale_cast]; exact_mod_cast h.2
  rw [abs_le]
  constructor
  · by_contra hc; nlinarith [not_le.mp hc]
  · by_contra hc; nlinarith [not_le.mp hc]

/-- Adding quarter turns. -/
theorem cos_sin_quarter (y : ℝ) (n : ℤ) :
    (n % 4 = 0 → Real.cos (y + n * (Real.pi / 2)) = Real.cos y ∧ Real.sin (y + n * (Real.pi / 2)) = Real.sin y)
    ∧ (n % 4 = 1 → Real.cos (y + n * (Real.pi / 2)) = -Real.sin y ∧ Real.sin (y + n * (Real.pi / 2)) = Real.cos y)
    ∧ (n % 4 = 2 → Real.cos (y + n * (Real.pi / 2)) = -Real.cos y ∧ Real.sin (y + n * (Real.pi / 2)) = -Real.sin y)
    ∧ (n % 4 = 3 → Real.cos (y + n * (Real.pi / 2)) = Real.sin y ∧ Real.sin (y + n * (Real.pi / 2)) = -Real.cos y) := by
  have key : ∀ r : ℤ, n % 4 = r → y + n * (Real.pi / 2) = (y + r * (Real.pi / 2)) + (n / 4 : ℤ) * (2 * Real.pi) := by
    intro r h
    have : (n : ℝ) = 4 * (n / 4 : ℤ) + r := by
      rw [← h]; exact_mod_cast (Int.mul_ediv_add_emod n 4).symm
    rw [this]; ring
  refine ⟨fun h => ?_, fun h => ?_, fun h => ?_, fun h => ?_⟩ <;>
    rw [key _ h, Real.cos_add_int_mul_two_pi, Real.sin_add_int_mul_two_pi]
  · simp
  · simp [Real.cos_add_pi_div_two, Real.sin_add_pi_div_two]
  · rw [show y + ((2 : ℤ) : ℝ) * (Real.pi / 2) = y + Real.pi by push_cast; ring, Real.cos_add_pi, Real.sin_add_pi]
    exact ⟨rfl, rfl⟩
  · rw [show y + ((3 : ℤ) : ℝ) * (Real.pi / 2) = (y + Real.pi / 2) + Real.pi by push_cast; ring, Real.cos_add_pi,
      Real.sin_add_pi, Real.cos_add_pi_div_two, Real.sin_add_pi_div_two]
    simp

theorem Encl.Holds.cosSin {p : Encl × Encl} (ha : a.Holds x) (h : a.cosSin = some p) :
    p.1.Holds (Real.cos x) ∧ p.2.Holds (Real.sin x) := by
  unfold Encl.cosSin at h
  dsimp only at h
  have hy := ha.sub (Encl.Holds.halfPi.mulInt a.quarterTurns)
  split at h
  · rename_i hr
    have hs := hy.cosSinSmall (hy.abs_le_one hr)
    have hx : x = (x - a.quarterTurns * (Real.pi / 2)) + a.quarterTurns * (Real.pi / 2) := by ring
    have hq := cos_sin_quarter (x - a.quarterTurns * (Real.pi / 2)) a.quarterTurns
    rw [← hx] at hq
    have h4 : a.quarterTurns % 4 = 0 ∨ a.quarterTurns % 4 = 1 ∨ a.quarterTurns % 4 = 2 ∨ a.quarterTurns % 4 = 3 := by
      omega
    rcases h4 with h4 | h4 | h4 | h4 <;> rw [h4] at h <;> cases h
    · rw [(hq.1 h4).1, (hq.1 h4).2]; exact hs
    · rw [(hq.2.1 h4).1, (hq.2.1 h4).2]; exact ⟨hs.2.neg, hs.1⟩
    · rw [(hq.2.2.1 h4).1, (hq.2.2.1 h4).2]; exact ⟨hs.1.neg, hs.2.neg⟩
    · rw [(hq.2.2.2 h4).1, (hq.2.2.2 h4).2]; exact ⟨hs.2, hs.1.neg⟩
  · cases h

/-! The argument. -/

/-- A point of the right half plane in polar form. -/
theorem right_polar (v u : ℝ) (hu : 0 < u) :
    ∃ r : ℝ, 0 < r ∧ u = r * Real.cos (Complex.arg ⟨u, v⟩) ∧ v = r * Real.sin (Complex.arg ⟨u, v⟩)
      ∧ |Complex.arg ⟨u, v⟩| < Real.pi / 2 := by
  have hz : (⟨u, v⟩ : ℂ) ≠ 0 := fun h => hu.ne' (congrArg Complex.re h)
  refine ⟨‖(⟨u, v⟩ : ℂ)‖, norm_pos_iff.mpr hz, ?_, ?_, ?_⟩
  · rw [Complex.cos_arg hz]; field_simp
  · rw [Complex.sin_arg]; field_simp
  · exact Complex.abs_arg_lt_pi_div_two_iff.mpr (.inl hu)

/-- The scaled point of the grid. -/
theorem Encl.Holds.point (t : ℤ) : (Encl.mk t t).Holds (t / gridUnit) := by
  have hg := gridUnit_pos
  constructor <;> simp only [div_mul_cancel₀ _ hg.ne'] <;> exact le_refl _

theorem abs_point_le (t : ℤ) (h : (t.natAbs : ℤ) ≤ Encl.halfPi.lo) : |(t : ℝ) / gridUnit| ≤ Real.pi / 2 := by
  have hg := gridUnit_pos
  rw [abs_div, abs_of_pos hg, div_le_iff₀ hg]
  refine le_trans ?_ Encl.Holds.halfPi.1
  rw [← Int.cast_abs]
  exact_mod_cast (Int.abs_eq_natAbs t ▸ h)

theorem atanAbove_spec {v u : ℝ} (ha : a.Holds v) (hb : b.Holds u) (hu : 0 < u) (t : ℤ)
    (h : atanAbove a b t = true) : (t : ℝ) ≤ Complex.arg ⟨u, v⟩ * gridUnit := by
  unfold atanAbove at h
  rw [Bool.and_eq_true, decide_eq_true_eq] at h
  obtain ⟨h1, h2⟩ := h
  split at h2
  · cases h2
  · rename_i c s hcs
    have hp := Encl.Holds.cosSin (Encl.Holds.point t) hcs
    have hd := (ha.mul hp.1).sub (hb.mul hp.2)
    have hg := gridUnit_pos
    have h3 : (0 : ℝ) ≤ (((a.mul c).sub (b.mul s)).lo : ℝ) := by exact_mod_cast of_decide_eq_true h2
    have h4 := h3.trans hd.1
    have h5 : 0 ≤ v * Real.cos (t / gridUnit) - u * Real.sin (t / gridUnit) := by
      by_contra hc; nlinarith [not_le.mp hc]
    obtain ⟨r, hr, e1, e2, h6⟩ := right_polar v u hu
    have h7 := abs_point_le t h1
    rw [abs_lt] at h6
    rw [abs_le] at h7
    rw [← div_le_iff₀ hg]
    by_contra hc
    have hc := not_le.mp hc
    have h8 : Real.sin (Complex.arg ⟨u, v⟩ - t / gridUnit) < 0 :=
      Real.sin_neg_of_neg_of_neg_pi_lt (by linarith) (by linarith [Real.pi_pos])
    have h9 : v * Real.cos (t / gridUnit) - u * Real.sin (t / gridUnit)
        = r * Real.sin (Complex.arg ⟨u, v⟩ - t / gridUnit) := by
      rw [Real.sin_sub]
      nth_rw 1 [e2]
      nth_rw 2 [e1]
      ring
    rw [h9] at h5
    nlinarith

theorem atanBelow_spec {v u : ℝ} (ha : a.Holds v) (hb : b.Holds u) (hu : 0 < u) (t : ℤ)
    (h : atanBelow a b t = true) : Complex.arg ⟨u, v⟩ * gridUnit ≤ (t : ℝ) := by
  unfold atanBelow at h
  rw [Bool.and_eq_true, decide_eq_true_eq] at h
  obtain ⟨h1, h2⟩ := h
  split at h2
  · cases h2
  · rename_i c s hcs
    have hp := Encl.Holds.cosSin (Encl.Holds.point t) hcs
    have hd := (ha.mul hp.1).sub (hb.mul hp.2)
    have hg := gridUnit_pos
    have h3 : (((a.mul c).sub (b.mul s)).hi : ℝ) ≤ 0 := by exact_mod_cast of_decide_eq_true h2
    have h4 := hd.2.trans h3
    have h5 : v * Real.cos (t / gridUnit) - u * Real.sin (t / gridUnit) ≤ 0 := by
      by_contra hc; nlinarith [not_le.mp hc]
    obtain ⟨r, hr, e1, e2, h6⟩ := right_polar v u hu
    have h7 := abs_point_le t h1
    rw [abs_lt] at h6
    rw [abs_le] at h7
    rw [← le_div_iff₀ hg]
    by_contra hc
    have hc := not_le.mp hc
    have h8 : 0 < Real.sin (Complex.arg ⟨u, v⟩ - t / gridUnit) :=
      Real.sin_pos_of_pos_of_lt_pi (by linarith) (by linarith [Real.pi_pos])
    have h9 : v * Real.cos (t / gridUnit) - u * Real.sin (t / gridUnit)
        = r * Real.sin (Complex.arg ⟨u, v⟩ - t / gridUnit) := by
      rw [Real.sin_sub]
      nth_rw 1 [e2]
      nth_rw 2 [e1]
      ring
    rw [h9] at h5
    nlinarith

theorem Encl.Holds.argRight {v u : ℝ} (ha : a.Holds v) (hb : b.Holds u) (hp : 0 < b.lo) :
    (Encl.argRight a b).Holds (Complex.arg ⟨u, v⟩) := by
  have hg := gridUnit_pos
  have hu : 0 < u := by
    have : (0 : ℝ) < u * gridUnit := lt_of_lt_of_le (by exact_mod_cast hp) hb.1
    by_contra h
    exact absurd this (not_lt.mpr (mul_nonpos_of_nonpos_of_nonneg (not_lt.mp h) hg.le))
  obtain ⟨r, hr, e1, e2, h6⟩ := right_polar v u hu
  rw [abs_lt] at h6
  have hh := Encl.Holds.halfPi
  unfold Encl.argRight
  constructor
  · dsimp only
    unfold atanLower
    split
    · rename_i h
      exact atanAbove_spec ha hb hu _ (by simpa using List.find?_some h)
    · push_cast
      nlinarith [hh.2]
  · dsimp only
    unfold atanUpper
    split
    · rename_i h
      exact atanBelow_spec ha hb hu _ (by simpa using List.find?_some h)
    · nlinarith [hh.2]

/-- The argument in the upper half plane, from the argument of the mirrored point. -/
theorem arg_upper (v u : ℝ) (hv : 0 < v) : Complex.arg ⟨u, v⟩ = Real.pi / 2 - Complex.arg ⟨v, u⟩ := by
  obtain ⟨r, hr, e1, e2, h6⟩ := right_polar u v hv
  rw [abs_lt] at h6
  have e : (⟨u, v⟩ : ℂ) = (r : ℂ) * (Complex.cos ((Real.pi / 2 - Complex.arg ⟨v, u⟩ : ℝ) : ℂ)
      + Complex.sin ((Real.pi / 2 - Complex.arg ⟨v, u⟩ : ℝ) : ℂ) * Complex.I) := by
    rw [← Complex.ofReal_cos, ← Complex.ofReal_sin, Real.cos_pi_div_two_sub, Real.sin_pi_div_two_sub]
    apply Complex.ext
    · simp only [Complex.mul_im, Complex.mul_re, Complex.add_im, Complex.add_re, Complex.ofReal_im, Complex.ofReal_re,
        Complex.I_im, Complex.I_re]
      linarith
    · simp only [Complex.mul_im, Complex.mul_re, Complex.add_im, Complex.add_re, Complex.ofReal_im, Complex.ofReal_re,
        Complex.I_im, Complex.I_re]
      linarith
  rw [e, Complex.arg_mul_cos_add_sin_mul_I hr ⟨by linarith, by linarith⟩]

/-- The argument in the lower half plane. -/
theorem arg_lower (v u : ℝ) (hv : v < 0) : Complex.arg ⟨u, v⟩ = Complex.arg ⟨-v, u⟩ - Real.pi / 2 := by
  obtain ⟨r, hr, e1, e2, h6⟩ := right_polar u (-v) (by linarith)
  rw [abs_lt] at h6
  have e : (⟨u, v⟩ : ℂ) = (r : ℂ) * (Complex.cos ((Complex.arg ⟨-v, u⟩ - Real.pi / 2 : ℝ) : ℂ)
      + Complex.sin ((Complex.arg ⟨-v, u⟩ - Real.pi / 2 : ℝ) : ℂ) * Complex.I) := by
    rw [← Complex.ofReal_cos, ← Complex.ofReal_sin, Real.cos_sub_pi_div_two, Real.sin_sub_pi_div_two]
    apply Complex.ext
    · simp only [Complex.mul_im, Complex.mul_re, Complex.add_im, Complex.add_re, Complex.ofReal_im, Complex.ofReal_re,
        Complex.I_im, Complex.I_re]
      linarith
    · simp only [Complex.mul_im, Complex.mul_re, Complex.add_im, Complex.add_re, Complex.ofReal_im, Complex.ofReal_re,
        Complex.I_im, Complex.I_re]
      linarith
  rw [e, Complex.arg_mul_cos_add_sin_mul_I hr ⟨by linarith, by linarith⟩]

theorem Encl.Holds.pos_of_lo (hb : b.Holds y) (hp : 0 < b.lo) : 0 < y := by
  have hg := gridUnit_pos
  have : (0 : ℝ) < y * gridUnit := lt_of_lt_of_le (by exact_mod_cast hp) hb.1
  by_contra h
  exact absurd this (not_lt.mpr (mul_nonpos_of_nonpos_of_nonneg (not_lt.mp h) hg.le))

theorem Encl.Holds.neg_of_hi (hb : b.Holds y) (hp : b.hi < 0) : y < 0 := by
  have hg := gridUnit_pos
  have : y * gridUnit < 0 := lt_of_le_of_lt hb.2 (by exact_mod_cast hp)
  by_contra h
  exact absurd this (not_lt.mpr (mul_nonneg (not_lt.mp h) hg.le))

theorem Encl.Holds.arg {e : Encl} {v u : ℝ} (ha : a.Holds v) (hb : b.Holds u) (h : Encl.arg a b = some e) :
    e.Holds (Complex.arg ⟨u, v⟩) := by
  unfold Encl.arg at h
  split at h
  · cases h; exact ha.argRight hb ‹_›
  · split at h
    · rename_i hv
      cases h
      rw [arg_upper v u (ha.pos_of_lo hv)]
      exact Encl.Holds.halfPi.sub (hb.argRight ha hv)
    · split at h
      · rename_i hv
        cases h
        rw [arg_lower v u (ha.neg_of_hi hv)]
        exact (hb.argRight ha.neg (by simp only [Encl.neg]; omega)).sub Encl.Holds.halfPi
      · cases h

end Sys2Proof.Machine
end

