-- ==== Sys2Proof/Machine/HostSide.lean ====
section
/-! DEFINITION. The host-side functions of 49_host_postprocessing.md: Global Phase Aligner (R261, R262) and
Parameter Estimator (R264, R265), as formulas and applied to the outputs of the block. They run on the host,
outside the block (00_scope.md R3 item 5); no step of the machine uses them. They say what the block's outputs
are for. -/

namespace Sys2Proof.Machine

variable {R : Type}

/-! The block's outputs, subframe by subframe. -/

/-- Part `j` of a concatenation of parts of the lengths `lens`: `x[o_j : o_j + lens[j])` with
`o_j = Σ_{i<j} lens[i]`; empty when there is no part `j`, whose table entry reads 0 (10_state.md R32). -/
def cutPart {α : Type} (lens : List Nat) (j : Nat) (x : List α) : List α :=
  slice x (lens.take j).sum ((lens.take j).sum + lens.getD j 0)

/-- The symbols of subframe `j`: OUT cut by SF_LEN (R32). -/
def State.subframe (s : State) (j : Nat) : List (Cx NUM) :=
  cutPart (s.sfLen.map BitVec.toNat) j (s.buf BufId.out)

/-- The symbols of subframe `j` before the phase correction: DBG_PRE cut by SF_LEN (R32). -/
def State.preSubframe (s : State) (j : Nat) : List (Cx NUM) :=
  cutPart (s.sfLen.map BitVec.toNat) j (s.buf BufId.dbgPre)

/-- The tone of subframe `j`: DBG_TONE cut by DBG_TLEN (R32). -/
def State.toneSubframe (s : State) (j : Nat) : List (Cx NUM) :=
  cutPart (s.dbgTlen.map BitVec.toNat) j (s.buf BufId.dbgTone)

/-- A subframe's symbols restricted to the revealed indices, each behind its revealed symbol: the transmitter
reveals symbols with their indices in the subframe (R261). DESIGN CHOICE (log 10): the indices count from the
start of the subframe, and a revealed index at which the subframe has no symbol is left out. -/
def matched (revealed : List (Nat × Cx R)) (received : List (Cx R)) : List (Cx R × Cx R) :=
  revealed.filterMap fun r => (received[r.1]?).map fun z => (r.2, z)

/-- `local·cis(θ)` (R262). -/
def Arith.turned (A : Arith R) (θ : R) (received : List (Cx R)) : List (Cx R) := received.map (A.cmul (A.cis θ))

/-! The Global Phase Aligner. -/

/-- `Cov(a, b)`, the population covariance of two complex sequences of one length `n >= 1` (R262). DESIGN CHOICE
(log 10): the rule gives none for other sequences; there this takes the length of `a` and 0 for the elements
that `b` does not have. -/
def Arith.ccov (A : Arith R) (a b : List (Cx R)) : Cx R :=
  let ma := A.cmean a
  let mb := A.cmean b
  A.cscale (A.div A.one (A.nat a.length))
    (A.csumTo (fun k => A.cmul (A.csub (A.elem a k) ma) (A.conj (A.csub (A.elem b k) mb))) a.length)

/-- The number of angles, `M = ceil(2π/precision)` (R262). DESIGN CHOICE (log 10): the rule does not say what a
precision that is not positive does; here it gives no angle, `M = 0`, and the search returns (0, 0). -/
def Arith.angleCount (A : Arith R) (precision : R) : Nat :=
  if A.isPos precision then (A.ceil (A.div A.twoPi precision)).toNat else 0

/-- The angle `θ_m` of the grid over [−π, π) (R262). -/
def Arith.gridAngle (A : Arith R) (M m : Nat) : R := A.mul A.pi (A.rat (2 * (m : Rat) / (M : Rat) - 1))

/-- `c_m`: the real part of the covariance at one angle (R262). -/
def Arith.angleScore (A : Arith R) (revealed received : List (Cx R)) (θ : R) : R :=
  (A.ccov revealed (A.turned θ received)).re

/-- One step of the exhaustive search: a strictly greater value replaces the pair (R262). -/
def Arith.betterAngle (A : Arith R) (revealed received : List (Cx R)) (best : R × R) (θ : R) : R × R :=
  let c := A.angleScore revealed received θ
  if A.lt best.2 c then (θ, c) else best

/-- `find_global_angle`: the best angle and its covariance, (0, 0) when no covariance is positive (R262), with the
default precision of R261. -/
def Arith.findGlobalAngle (A : Arith R) (revealed received : List (Cx R))
    (precision : R := A.rat Config.anglePrecision) : R × R :=
  let M := A.angleCount precision
  ((List.range M).map (A.gridAngle M)).foldl (A.betterAngle revealed received) (A.zero, A.zero)

/-- The alignment of one subframe's symbols to what the transmitter revealed of them (R261). -/
def Arith.alignTo (A : Arith R) (revealed : List (Nat × Cx R)) (received : List (Cx R))
    (precision : R := A.rat Config.anglePrecision) : R × R :=
  let pairs := matched revealed received
  A.findGlobalAngle (pairs.map Prod.fst) (pairs.map Prod.snd) precision

/-- The Global Phase Aligner on subframe `j` of OUT: the best angle and its covariance (R261). -/
noncomputable def State.alignSubframe (s : State) (revealed : List (Nat × Cx NUM)) (j : Nat)
    (precision : NUM := numArith.rat Config.anglePrecision) : NUM × NUM :=
  numArith.alignTo revealed (s.subframe j) precision

/-- The aligner "runs once per subframe": its result for each of the SF_COUNT subframes, `revealed j` being what
the transmitter revealed of subframe `j` (R261). -/
noncomputable def State.alignSubframes (s : State) (revealed : Nat → List (Nat × Cx NUM))
    (precision : NUM := numArith.rat Config.anglePrecision) : List (NUM × NUM) :=
  (List.range s.sfCount.toNat).map fun j => s.alignSubframe (revealed j) j precision

/-! The Parameter Estimator. -/

/-- `il(z)`: real and imaginary parts in turn (R265). -/
def interleave (z : List (Cx R)) : List R := z.flatMap fun c => [c.re, c.im]

/-- `Cov(a, b)` of two real sequences of one length (R265). -/
def Arith.rcov (A : Arith R) (a b : List R) : R :=
  let ma := A.mean a
  let mb := A.mean b
  A.mul (A.div A.one (A.nat a.length))
    (A.sumTo (fun k => A.mul (A.sub (A.relem a k) ma) (A.sub (A.relem b k) mb)) a.length)

/-- `Var(a)` of a real sequence (R265). -/
def Arith.rvar (A : Arith R) (a : List R) : R := A.rcov a a

/-- The mean of `|z|²` (R264 item 7). -/
def Arith.meanPower (A : Arith R) (z : List (Cx R)) : R := A.mean (z.map A.normSq)

/-- The result of the estimator (R265, R266). -/
structure Estimate (R : Type) where
  transmittance : R
  excessNoise : R
  electronicNoise : R

/-- The Parameter Estimator (R265): none where the rule says it is not defined. DESIGN CHOICE (log 10): none also
for transmitter and local symbols of unequal length and for an empty sequence, where `Cov` and `Var` are not
defined (R265, 00_scope.md R7). -/
def Arith.estimate (A : Arith R) (transmitter received spoE spoES : List (Cx R)) (photonNumber : R) :
    Option (Estimate R) :=
  let T := interleave transmitter
  let Y := interleave received
  let shot := A.sub (A.rvar (interleave spoES)) (A.rvar (interleave spoE))
  if !(transmitter.length == received.length) || transmitter.isEmpty || spoE.isEmpty || spoES.isEmpty then none
  else if !A.isPos shot || A.eq (A.rvar T) A.zero || !A.isPos photonNumber then none
  else
    let vel := A.div (A.rvar (interleave spoE)) shot
    let Yn := Y.map fun y => A.div y (A.sqrt shot)
    let a := A.div (A.rcov T Yn) (A.rvar T)
    let residual := (List.range T.length).map fun k => A.sub (A.mul a (A.relem T k)) (A.relem Yn k)
    let xi := A.sub (A.sub (A.rvar residual) A.one) vel
    let conv := A.sqrt (A.div photonNumber (A.meanPower transmitter))
    some ⟨A.div (A.mul a a) (A.mul conv conv), xi, vel⟩

/-- Subframe `j` as the estimator takes it: each revealed symbol with the recovered one, turned by the angle that
the aligner found for the subframe (R264). DESIGN CHOICE (log 10): a subframe whose search fell back to (0, 0),
which R262 leaves the host to flag or to accept, is kept, turned by the angle 0; its covariance 0 is not looked
at here, and `State.alignSubframes` shows it. -/
noncomputable def State.alignedPairs (s : State) (revealed : List (Nat × Cx NUM)) (j : Nat)
    (precision : NUM := numArith.rat Config.anglePrecision) : List (Cx NUM × Cx NUM) :=
  let pairs := matched revealed (s.subframe j)
  let θ := (s.alignSubframe revealed j precision).1
  (pairs.map Prod.fst).zip (numArith.turned θ (pairs.map Prod.snd))

/-- The Parameter Estimator on the outputs of RUN and SPECIAL: the aligned revealed symbols of the subframes, and
the calibration streams SPO_E and SPO_ES (R264, R260). DESIGN CHOICE (log 10): one estimate over all subframes, in
their order. -/
noncomputable def State.estimateChannel (s : State) (revealed : Nat → List (Nat × Cx NUM)) (photonNumber : NUM)
    (precision : NUM := numArith.rat Config.anglePrecision) : Option (Estimate NUM) :=
  let pairs := (List.range s.sfCount.toNat).flatMap fun j => s.alignedPairs (revealed j) j precision
  numArith.estimate (pairs.map Prod.fst) (pairs.map Prod.snd) (s.buf BufId.spoE) (s.buf BufId.spoES) photonNumber

end Sys2Proof.Machine
end

