-- ==== Sys2Proof/Laws/HostSide.lean ====
section
/-! SUPPORT. Cutting the block's outputs by the subframe tables gives back the parts that RUN concatenated
(10_state.md R32), and what restricting a subframe to the revealed indices can do
(49_host_postprocessing.md R261). -/

namespace Sys2Proof.Machine

/-- A concatenation, cut by the lengths of its parts, gives its parts back. -/
theorem cutPart_flatten {α : Type} (parts : List (List α)) (j : Nat) (p : List α) (h : parts[j]? = some p) :
    cutPart (parts.map List.length) j parts.flatten = p := by
  induction parts generalizing j with
  | nil => simp at h
  | cons q qs ih =>
    cases j with
    | zero =>
      obtain rfl : q = p := by simpa using h
      simp [cutPart, slice]
    | succ j =>
      have := ih j (by simpa using h)
      simp only [cutPart, slice, Nat.add_sub_cancel_left] at this ⊢
      simpa [← List.drop_drop] using this

/-- The symbols of the subframes are those that RUN concatenated, whatever lengths below 2^32 they have. -/
theorem State.subframe_of_parts (s : State) (parts : List (List (Cx NUM))) (j : Nat) (p : List (Cx NUM))
    (hout : s.buf BufId.out = parts.flatten) (hlen : s.sfLen = parts.map fun q => BitVec.ofNat 32 q.length)
    (hsmall : ∀ q ∈ parts, q.length < 2 ^ 32) (h : parts[j]? = some p) : s.subframe j = p := by
  have : s.sfLen.map BitVec.toNat = parts.map List.length := by
    rw [hlen, List.map_map]
    exact List.map_congr_left fun q hq => Nat.mod_eq_of_lt (hsmall q hq)
  rw [State.subframe, hout, this, cutPart_flatten parts j p h]

/-- A pair of the restriction is a revealed symbol and the recovered symbol at its index. -/
theorem mem_matched {R : Type} (revealed : List (Nat × Cx R)) (received : List (Cx R)) (a b : Cx R) :
    (a, b) ∈ matched revealed received ↔ ∃ i, (i, a) ∈ revealed ∧ received[i]? = some b := by
  simp [matched, List.mem_filterMap, and_assoc, and_comm, and_left_comm]

end Sys2Proof.Machine
end

