-- ==== Sys2Proof/Laws/Lengths.lean ====
section
/-! SUPPORT. The length of what each function of the rules returns, over any number domain. -/

namespace Sys2Proof.Machine

variable {R : Type} (A : Arith R)

@[simp] theorem repeatEach_length {α : Type} (a : List α) (q : ℕ) : (repeatEach a q).length = a.length * q := by
  induction a with
  | nil => simp [repeatEach]
  | cons x a ih =>
    simp only [repeatEach, List.flatMap_cons, List.length_append, List.length_replicate, List.length_cons] at ih ⊢
    rw [ih]; ring

@[simp] theorem slice_length {α : Type} (x : List α) (lo hi : ℕ) : (slice x lo hi).length = min (hi - lo) (x.length - lo) := by
  simp [slice]

@[simp] theorem Arith.unwrapFrom_length (p u : R) (l : List R) : (A.unwrapFrom p u l).length = l.length := by
  induction l generalizing p u with
  | nil => rfl
  | cons q l ih => simp [Arith.unwrapFrom, ih]

@[simp] theorem Arith.unwrap_length (l : List R) : (A.unwrap l).length = l.length := by
  cases l <;> simp [Arith.unwrap]

@[simp] theorem Arith.convSame_length (x h : List (Cx R)) : (A.convSame x h).length = x.length := by
  simp [Arith.convSame]

@[simp] theorem Arith.dft_length (x : List (Cx R)) : (A.dft x).length = x.length := by simp [Arith.dft]

@[simp] theorem Arith.downsample_length {α : Type} (z : α) (d : List α) (start : ℕ) (f : R) :
    (A.downsample z d start f).length = A.downsampleLen d.length start f := by
  simp [Arith.downsample]

@[simp] theorem Arith.zc_length (u L : ℕ) : (A.zc u L).length = L := by simp [Arith.zc]

@[simp] theorem Arith.reference_length (u L q : ℕ) : (A.reference u L q).length = L * q := by
  simp [Arith.reference]

/-- A tone that is found has the length of its capture. -/
theorem Arith.tone_length {x t : List (Cx R)} {f0 fs : R} {T : ℕ} {fc : R} (h : A.tone x f0 fs T fc = .ok t) :
    t.length = x.length := by
  unfold Arith.tone at h
  split at h
  · cases h
  · split at h
    · cases h
    · cases h; simp

@[simp] theorem Arith.phasediff_length (t : List (Cx R)) (f fs : R) : (A.phasediff t f fs).length = t.length := by
  simp [Arith.phasediff]

@[simp] theorem Arith.smooth_length (φ : List R) (W : ℕ) : (A.smooth φ W).length = φ.length := by
  unfold Arith.smooth
  split <;> simp

@[simp] theorem Arith.phnoise_length (t : List (Cx R)) (f fs : R) (W : ℕ) :
    (A.phnoise t f fs W).length = t.length := by
  simp [Arith.phnoise]

/-- Corrected symbols are as many as the symbols given. -/
theorem Arith.phcorr_length {y z : List (Cx R)} {φ : List R} {start : ℕ} {f : R} (h : A.phcorr y φ start f = .ok z) :
    z.length = y.length := by
  unfold Arith.phcorr at h
  dsimp only at h
  split at h
  · cases h
  · cases h; simp

@[simp] theorem Arith.fshift_length (x : List (Cx R)) (f fs : R) : (A.fshift x f fs).length = x.length := by
  simp [Arith.fshift]

@[simp] theorem Arith.rrc_length (T : ℕ) (β Ts fs : R) : (A.rrc T β Ts fs).length = T := by simp [Arith.rrc]

@[simp] theorem Arith.mfilt_length (x : List (Cx R)) (sps β Rs fs : R) : (A.mfilt x sps β Rs fs).length = x.length := by
  simp [Arith.mfilt]

@[simp] theorem Arith.ofReals_length (x : List R) : (A.ofReals x).length = x.length := by simp [Arith.ofReals]

@[simp] theorem Arith.calibrate_length (snap : SnapBank R) (x : List (Cx R)) :
    (A.calibrate snap x).length = A.calibrateLen snap x.length := by
  simp [Arith.calibrate, Arith.calibrateLen]

end Sys2Proof.Machine
end

