-- ==== Sys2Proof/Laws/State.lean ====
section
/-! SUPPORT. One lemma per field per update of the state, so that no proof unfolds a record update. -/

namespace Sys2Proof.Machine

variable (s : State)

@[simp] theorem State.setBuf_status (b : BufId) (a : List (Cx NUM)) : (s.setBuf b a).status = s.status := rfl
@[simp] theorem State.setBuf_errCode (b : BufId) (a : List (Cx NUM)) : (s.setBuf b a).errCode = s.errCode := rfl
@[simp] theorem State.setBuf_errInfo (b : BufId) (a : List (Cx NUM)) : (s.setBuf b a).errInfo = s.errInfo := rfl
@[simp] theorem State.setBuf_latch (b : BufId) (a : List (Cx NUM)) : (s.setBuf b a).latch = s.latch := rfl
@[simp] theorem State.setBuf_arg (b : BufId) (a : List (Cx NUM)) : (s.setBuf b a).arg = s.arg := rfl
@[simp] theorem State.setBuf_res (b : BufId) (a : List (Cx NUM)) : (s.setBuf b a).res = s.res := rfl
@[simp] theorem State.setBuf_cfg (b : BufId) (a : List (Cx NUM)) : (s.setBuf b a).cfg = s.cfg := rfl
@[simp] theorem State.setBuf_exclLo (b : BufId) (a : List (Cx NUM)) : (s.setBuf b a).exclLo = s.exclLo := rfl
@[simp] theorem State.setBuf_exclHi (b : BufId) (a : List (Cx NUM)) : (s.setBuf b a).exclHi = s.exclHi := rfl
@[simp] theorem State.setBuf_snap (b : BufId) (a : List (Cx NUM)) : (s.setBuf b a).snap = s.snap := rfl
@[simp] theorem State.setBuf_dbg (b : BufId) (a : List (Cx NUM)) : (s.setBuf b a).dbg = s.dbg := rfl
@[simp] theorem State.setBuf_sfCount (b : BufId) (a : List (Cx NUM)) : (s.setBuf b a).sfCount = s.sfCount := rfl
@[simp] theorem State.setBuf_sfLen (b : BufId) (a : List (Cx NUM)) : (s.setBuf b a).sfLen = s.sfLen := rfl
@[simp] theorem State.setBuf_dbgTlen (b : BufId) (a : List (Cx NUM)) : (s.setBuf b a).dbgTlen = s.dbgTlen := rfl
@[simp] theorem State.setBuf_mem (b : BufId) (a : List (Cx NUM)) : (s.setBuf b a).mem = s.mem.set b a := rfl
@[simp] theorem State.setBuf_agenda (b : BufId) (a : List (Cx NUM)) : (s.setBuf b a).agenda = s.agenda := rfl
@[simp] theorem State.setBuf_answer (b : BufId) (a : List (Cx NUM)) : (s.setBuf b a).answer = s.answer := rfl

@[simp] theorem State.setI0_status (w : Word) : (s.setI0 w).status = s.status := rfl
@[simp] theorem State.setI0_errCode (w : Word) : (s.setI0 w).errCode = s.errCode := rfl
@[simp] theorem State.setI0_errInfo (w : Word) : (s.setI0 w).errInfo = s.errInfo := rfl
@[simp] theorem State.setI0_latch (w : Word) : (s.setI0 w).latch = s.latch := rfl
@[simp] theorem State.setI0_arg (w : Word) : (s.setI0 w).arg = s.arg := rfl
@[simp] theorem State.setI0_res (w : Word) : (s.setI0 w).res = { s.res with i0 := w } := rfl
@[simp] theorem State.setI0_cfg (w : Word) : (s.setI0 w).cfg = s.cfg := rfl
@[simp] theorem State.setI0_exclLo (w : Word) : (s.setI0 w).exclLo = s.exclLo := rfl
@[simp] theorem State.setI0_exclHi (w : Word) : (s.setI0 w).exclHi = s.exclHi := rfl
@[simp] theorem State.setI0_snap (w : Word) : (s.setI0 w).snap = s.snap := rfl
@[simp] theorem State.setI0_dbg (w : Word) : (s.setI0 w).dbg = s.dbg := rfl
@[simp] theorem State.setI0_sfCount (w : Word) : (s.setI0 w).sfCount = s.sfCount := rfl
@[simp] theorem State.setI0_sfLen (w : Word) : (s.setI0 w).sfLen = s.sfLen := rfl
@[simp] theorem State.setI0_dbgTlen (w : Word) : (s.setI0 w).dbgTlen = s.dbgTlen := rfl
@[simp] theorem State.setI0_mem (w : Word) : (s.setI0 w).mem = s.mem := rfl
@[simp] theorem State.setI0_agenda (w : Word) : (s.setI0 w).agenda = s.agenda := rfl
@[simp] theorem State.setI0_answer (w : Word) : (s.setI0 w).answer = s.answer := rfl

@[simp] theorem State.setI1_status (w : Word) : (s.setI1 w).status = s.status := rfl
@[simp] theorem State.setI1_errCode (w : Word) : (s.setI1 w).errCode = s.errCode := rfl
@[simp] theorem State.setI1_errInfo (w : Word) : (s.setI1 w).errInfo = s.errInfo := rfl
@[simp] theorem State.setI1_latch (w : Word) : (s.setI1 w).latch = s.latch := rfl
@[simp] theorem State.setI1_arg (w : Word) : (s.setI1 w).arg = s.arg := rfl
@[simp] theorem State.setI1_res (w : Word) : (s.setI1 w).res = { s.res with i1 := w } := rfl
@[simp] theorem State.setI1_cfg (w : Word) : (s.setI1 w).cfg = s.cfg := rfl
@[simp] theorem State.setI1_exclLo (w : Word) : (s.setI1 w).exclLo = s.exclLo := rfl
@[simp] theorem State.setI1_exclHi (w : Word) : (s.setI1 w).exclHi = s.exclHi := rfl
@[simp] theorem State.setI1_snap (w : Word) : (s.setI1 w).snap = s.snap := rfl
@[simp] theorem State.setI1_dbg (w : Word) : (s.setI1 w).dbg = s.dbg := rfl
@[simp] theorem State.setI1_sfCount (w : Word) : (s.setI1 w).sfCount = s.sfCount := rfl
@[simp] theorem State.setI1_sfLen (w : Word) : (s.setI1 w).sfLen = s.sfLen := rfl
@[simp] theorem State.setI1_dbgTlen (w : Word) : (s.setI1 w).dbgTlen = s.dbgTlen := rfl
@[simp] theorem State.setI1_mem (w : Word) : (s.setI1 w).mem = s.mem := rfl
@[simp] theorem State.setI1_agenda (w : Word) : (s.setI1 w).agenda = s.agenda := rfl
@[simp] theorem State.setI1_answer (w : Word) : (s.setI1 w).answer = s.answer := rfl

@[simp] theorem State.setN0_status (x : NUM) : (s.setN0 x).status = s.status := rfl
@[simp] theorem State.setN0_errCode (x : NUM) : (s.setN0 x).errCode = s.errCode := rfl
@[simp] theorem State.setN0_errInfo (x : NUM) : (s.setN0 x).errInfo = s.errInfo := rfl
@[simp] theorem State.setN0_latch (x : NUM) : (s.setN0 x).latch = s.latch := rfl
@[simp] theorem State.setN0_arg (x : NUM) : (s.setN0 x).arg = s.arg := rfl
@[simp] theorem State.setN0_res (x : NUM) : (s.setN0 x).res = { s.res with n0 := x } := rfl
@[simp] theorem State.setN0_cfg (x : NUM) : (s.setN0 x).cfg = s.cfg := rfl
@[simp] theorem State.setN0_exclLo (x : NUM) : (s.setN0 x).exclLo = s.exclLo := rfl
@[simp] theorem State.setN0_exclHi (x : NUM) : (s.setN0 x).exclHi = s.exclHi := rfl
@[simp] theorem State.setN0_snap (x : NUM) : (s.setN0 x).snap = s.snap := rfl
@[simp] theorem State.setN0_dbg (x : NUM) : (s.setN0 x).dbg = s.dbg := rfl
@[simp] theorem State.setN0_sfCount (x : NUM) : (s.setN0 x).sfCount = s.sfCount := rfl
@[simp] theorem State.setN0_sfLen (x : NUM) : (s.setN0 x).sfLen = s.sfLen := rfl
@[simp] theorem State.setN0_dbgTlen (x : NUM) : (s.setN0 x).dbgTlen = s.dbgTlen := rfl
@[simp] theorem State.setN0_mem (x : NUM) : (s.setN0 x).mem = s.mem := rfl
@[simp] theorem State.setN0_agenda (x : NUM) : (s.setN0 x).agenda = s.agenda := rfl
@[simp] theorem State.setN0_answer (x : NUM) : (s.setN0 x).answer = s.answer := rfl

@[simp] theorem State.setN1_status (x : NUM) : (s.setN1 x).status = s.status := rfl
@[simp] theorem State.setN1_errCode (x : NUM) : (s.setN1 x).errCode = s.errCode := rfl
@[simp] theorem State.setN1_errInfo (x : NUM) : (s.setN1 x).errInfo = s.errInfo := rfl
@[simp] theorem State.setN1_latch (x : NUM) : (s.setN1 x).latch = s.latch := rfl
@[simp] theorem State.setN1_arg (x : NUM) : (s.setN1 x).arg = s.arg := rfl
@[simp] theorem State.setN1_res (x : NUM) : (s.setN1 x).res = { s.res with n1 := x } := rfl
@[simp] theorem State.setN1_cfg (x : NUM) : (s.setN1 x).cfg = s.cfg := rfl
@[simp] theorem State.setN1_exclLo (x : NUM) : (s.setN1 x).exclLo = s.exclLo := rfl
@[simp] theorem State.setN1_exclHi (x : NUM) : (s.setN1 x).exclHi = s.exclHi := rfl
@[simp] theorem State.setN1_snap (x : NUM) : (s.setN1 x).snap = s.snap := rfl
@[simp] theorem State.setN1_dbg (x : NUM) : (s.setN1 x).dbg = s.dbg := rfl
@[simp] theorem State.setN1_sfCount (x : NUM) : (s.setN1 x).sfCount = s.sfCount := rfl
@[simp] theorem State.setN1_sfLen (x : NUM) : (s.setN1 x).sfLen = s.sfLen := rfl
@[simp] theorem State.setN1_dbgTlen (x : NUM) : (s.setN1 x).dbgTlen = s.dbgTlen := rfl
@[simp] theorem State.setN1_mem (x : NUM) : (s.setN1 x).mem = s.mem := rfl
@[simp] theorem State.setN1_agenda (x : NUM) : (s.setN1 x).agenda = s.agenda := rfl
@[simp] theorem State.setN1_answer (x : NUM) : (s.setN1 x).answer = s.answer := rfl

@[simp] theorem State.fail_status (e : ErrCode) : (s.fail e).status = s.status.failed := rfl
@[simp] theorem State.fail_errCode (e : ErrCode) : (s.fail e).errCode = e.code := rfl
@[simp] theorem State.fail_errInfo (e : ErrCode) : (s.fail e).errInfo = s.latch := rfl
@[simp] theorem State.fail_latch (e : ErrCode) : (s.fail e).latch = 0#32 := rfl
@[simp] theorem State.fail_arg (e : ErrCode) : (s.fail e).arg = s.arg := rfl
@[simp] theorem State.fail_res (e : ErrCode) : (s.fail e).res = s.res := rfl
@[simp] theorem State.fail_cfg (e : ErrCode) : (s.fail e).cfg = s.cfg := rfl
@[simp] theorem State.fail_exclLo (e : ErrCode) : (s.fail e).exclLo = s.exclLo := rfl
@[simp] theorem State.fail_exclHi (e : ErrCode) : (s.fail e).exclHi = s.exclHi := rfl
@[simp] theorem State.fail_snap (e : ErrCode) : (s.fail e).snap = s.snap := rfl
@[simp] theorem State.fail_dbg (e : ErrCode) : (s.fail e).dbg = s.dbg := rfl
@[simp] theorem State.fail_sfCount (e : ErrCode) : (s.fail e).sfCount = s.sfCount := rfl
@[simp] theorem State.fail_sfLen (e : ErrCode) : (s.fail e).sfLen = s.sfLen := rfl
@[simp] theorem State.fail_dbgTlen (e : ErrCode) : (s.fail e).dbgTlen = s.dbgTlen := rfl
@[simp] theorem State.fail_mem (e : ErrCode) : (s.fail e).mem = s.mem := rfl
@[simp] theorem State.fail_agenda (e : ErrCode) : (s.fail e).agenda = s.agenda := rfl
@[simp] theorem State.fail_answer (e : ErrCode) : (s.fail e).answer = s.answer := rfl

@[simp] theorem State.succeed_status : s.succeed.status = s.status.completed := rfl
@[simp] theorem State.succeed_errCode : s.succeed.errCode = 0#32 := rfl
@[simp] theorem State.succeed_errInfo : s.succeed.errInfo = s.errInfo := rfl
@[simp] theorem State.succeed_latch : s.succeed.latch = 0#32 := rfl
@[simp] theorem State.succeed_arg : s.succeed.arg = s.arg := rfl
@[simp] theorem State.succeed_res : s.succeed.res = s.res := rfl
@[simp] theorem State.succeed_cfg : s.succeed.cfg = s.cfg := rfl
@[simp] theorem State.succeed_exclLo : s.succeed.exclLo = s.exclLo := rfl
@[simp] theorem State.succeed_exclHi : s.succeed.exclHi = s.exclHi := rfl
@[simp] theorem State.succeed_snap : s.succeed.snap = s.snap := rfl
@[simp] theorem State.succeed_dbg : s.succeed.dbg = s.dbg := rfl
@[simp] theorem State.succeed_sfCount : s.succeed.sfCount = s.sfCount := rfl
@[simp] theorem State.succeed_sfLen : s.succeed.sfLen = s.sfLen := rfl
@[simp] theorem State.succeed_dbgTlen : s.succeed.dbgTlen = s.dbgTlen := rfl
@[simp] theorem State.succeed_mem : s.succeed.mem = s.mem := rfl
@[simp] theorem State.succeed_agenda : s.succeed.agenda = s.agenda := rfl
@[simp] theorem State.succeed_answer : s.succeed.answer = s.answer := rfl

@[simp] theorem State.clearForRun_status : s.clearForRun.status = s.status.runCleared := rfl
@[simp] theorem State.clearForRun_errCode : s.clearForRun.errCode = s.errCode := rfl
@[simp] theorem State.clearForRun_errInfo : s.clearForRun.errInfo = s.errInfo := rfl
@[simp] theorem State.clearForRun_latch : s.clearForRun.latch = s.latch := rfl
@[simp] theorem State.clearForRun_arg : s.clearForRun.arg = s.arg := rfl
@[simp] theorem State.clearForRun_res : s.clearForRun.res = s.res := rfl
@[simp] theorem State.clearForRun_cfg : s.clearForRun.cfg = s.cfg := rfl
@[simp] theorem State.clearForRun_exclLo : s.clearForRun.exclLo = s.exclLo := rfl
@[simp] theorem State.clearForRun_exclHi : s.clearForRun.exclHi = s.exclHi := rfl
@[simp] theorem State.clearForRun_snap : s.clearForRun.snap = s.snap := rfl
@[simp] theorem State.clearForRun_dbg : s.clearForRun.dbg = DbgBank.reset := rfl
@[simp] theorem State.clearForRun_sfCount : s.clearForRun.sfCount = 0#32 := rfl
@[simp] theorem State.clearForRun_sfLen : s.clearForRun.sfLen = [] := rfl
@[simp] theorem State.clearForRun_dbgTlen : s.clearForRun.dbgTlen = [] := rfl
@[simp] theorem State.clearForRun_mem : s.clearForRun.mem = ((s.mem.set BufId.out []).set BufId.dbgTone []).set BufId.dbgPre [] := rfl
@[simp] theorem State.clearForRun_agenda : s.clearForRun.agenda = s.agenda := rfl
@[simp] theorem State.clearForRun_answer : s.clearForRun.answer = s.answer := rfl

@[simp] theorem State.clearForSpecial_status : s.clearForSpecial.status = s.status.specialCleared := rfl
@[simp] theorem State.clearForSpecial_errCode : s.clearForSpecial.errCode = s.errCode := rfl
@[simp] theorem State.clearForSpecial_errInfo : s.clearForSpecial.errInfo = s.errInfo := rfl
@[simp] theorem State.clearForSpecial_latch : s.clearForSpecial.latch = s.latch := rfl
@[simp] theorem State.clearForSpecial_arg : s.clearForSpecial.arg = s.arg := rfl
@[simp] theorem State.clearForSpecial_res : s.clearForSpecial.res = s.res := rfl
@[simp] theorem State.clearForSpecial_cfg : s.clearForSpecial.cfg = s.cfg := rfl
@[simp] theorem State.clearForSpecial_exclLo : s.clearForSpecial.exclLo = s.exclLo := rfl
@[simp] theorem State.clearForSpecial_exclHi : s.clearForSpecial.exclHi = s.exclHi := rfl
@[simp] theorem State.clearForSpecial_snap : s.clearForSpecial.snap = s.snap := rfl
@[simp] theorem State.clearForSpecial_dbg : s.clearForSpecial.dbg = s.dbg := rfl
@[simp] theorem State.clearForSpecial_sfCount : s.clearForSpecial.sfCount = s.sfCount := rfl
@[simp] theorem State.clearForSpecial_sfLen : s.clearForSpecial.sfLen = s.sfLen := rfl
@[simp] theorem State.clearForSpecial_dbgTlen : s.clearForSpecial.dbgTlen = s.dbgTlen := rfl
@[simp] theorem State.clearForSpecial_mem : s.clearForSpecial.mem = (s.mem.set BufId.spoE []).set BufId.spoES [] := rfl
@[simp] theorem State.clearForSpecial_agenda : s.clearForSpecial.agenda = s.agenda := rfl
@[simp] theorem State.clearForSpecial_answer : s.clearForSpecial.answer = s.answer := rfl

@[simp] theorem State.resetBlock_status : s.resetBlock.status = State.reset.status := rfl
@[simp] theorem State.resetBlock_errCode : s.resetBlock.errCode = State.reset.errCode := rfl
@[simp] theorem State.resetBlock_errInfo : s.resetBlock.errInfo = State.reset.errInfo := rfl
@[simp] theorem State.resetBlock_latch : s.resetBlock.latch = State.reset.latch := rfl
@[simp] theorem State.resetBlock_arg : s.resetBlock.arg = State.reset.arg := rfl
@[simp] theorem State.resetBlock_res : s.resetBlock.res = State.reset.res := rfl
@[simp] theorem State.resetBlock_cfg : s.resetBlock.cfg = State.reset.cfg := rfl
@[simp] theorem State.resetBlock_exclLo : s.resetBlock.exclLo = State.reset.exclLo := rfl
@[simp] theorem State.resetBlock_exclHi : s.resetBlock.exclHi = State.reset.exclHi := rfl
@[simp] theorem State.resetBlock_snap : s.resetBlock.snap = State.reset.snap := rfl
@[simp] theorem State.resetBlock_dbg : s.resetBlock.dbg = State.reset.dbg := rfl
@[simp] theorem State.resetBlock_sfCount : s.resetBlock.sfCount = State.reset.sfCount := rfl
@[simp] theorem State.resetBlock_sfLen : s.resetBlock.sfLen = State.reset.sfLen := rfl
@[simp] theorem State.resetBlock_dbgTlen : s.resetBlock.dbgTlen = State.reset.dbgTlen := rfl
@[simp] theorem State.resetBlock_mem : s.resetBlock.mem = State.reset.mem := rfl
@[simp] theorem State.resetBlock_agenda : s.resetBlock.agenda = s.agenda := rfl
@[simp] theorem State.resetBlock_answer : s.resetBlock.answer = s.answer := rfl

@[simp] theorem State.refuse_status : s.refuse.status = s.status.violated := rfl
@[simp] theorem State.refuse_errCode : s.refuse.errCode = s.errCode := rfl
@[simp] theorem State.refuse_errInfo : s.refuse.errInfo = s.errInfo := rfl
@[simp] theorem State.refuse_latch : s.refuse.latch = s.latch := rfl
@[simp] theorem State.refuse_arg : s.refuse.arg = s.arg := rfl
@[simp] theorem State.refuse_res : s.refuse.res = s.res := rfl
@[simp] theorem State.refuse_cfg : s.refuse.cfg = s.cfg := rfl
@[simp] theorem State.refuse_exclLo : s.refuse.exclLo = s.exclLo := rfl
@[simp] theorem State.refuse_exclHi : s.refuse.exclHi = s.exclHi := rfl
@[simp] theorem State.refuse_snap : s.refuse.snap = s.snap := rfl
@[simp] theorem State.refuse_dbg : s.refuse.dbg = s.dbg := rfl
@[simp] theorem State.refuse_sfCount : s.refuse.sfCount = s.sfCount := rfl
@[simp] theorem State.refuse_sfLen : s.refuse.sfLen = s.sfLen := rfl
@[simp] theorem State.refuse_dbgTlen : s.refuse.dbgTlen = s.dbgTlen := rfl
@[simp] theorem State.refuse_mem : s.refuse.mem = s.mem := rfl
@[simp] theorem State.refuse_agenda : s.refuse.agenda = s.agenda := rfl
@[simp] theorem State.refuse_answer : s.refuse.answer = s.answer := rfl

@[simp] theorem State.writeSnap_status (b : SnapBank NUM) : (s.writeSnap b).status = s.status.snapTouched := rfl
@[simp] theorem State.writeSnap_errCode (b : SnapBank NUM) : (s.writeSnap b).errCode = s.errCode := rfl
@[simp] theorem State.writeSnap_errInfo (b : SnapBank NUM) : (s.writeSnap b).errInfo = s.errInfo := rfl
@[simp] theorem State.writeSnap_latch (b : SnapBank NUM) : (s.writeSnap b).latch = s.latch := rfl
@[simp] theorem State.writeSnap_arg (b : SnapBank NUM) : (s.writeSnap b).arg = s.arg := rfl
@[simp] theorem State.writeSnap_res (b : SnapBank NUM) : (s.writeSnap b).res = s.res := rfl
@[simp] theorem State.writeSnap_cfg (b : SnapBank NUM) : (s.writeSnap b).cfg = s.cfg := rfl
@[simp] theorem State.writeSnap_exclLo (b : SnapBank NUM) : (s.writeSnap b).exclLo = s.exclLo := rfl
@[simp] theorem State.writeSnap_exclHi (b : SnapBank NUM) : (s.writeSnap b).exclHi = s.exclHi := rfl
@[simp] theorem State.writeSnap_snap (b : SnapBank NUM) : (s.writeSnap b).snap = b := rfl
@[simp] theorem State.writeSnap_dbg (b : SnapBank NUM) : (s.writeSnap b).dbg = s.dbg := rfl
@[simp] theorem State.writeSnap_sfCount (b : SnapBank NUM) : (s.writeSnap b).sfCount = s.sfCount := rfl
@[simp] theorem State.writeSnap_sfLen (b : SnapBank NUM) : (s.writeSnap b).sfLen = s.sfLen := rfl
@[simp] theorem State.writeSnap_dbgTlen (b : SnapBank NUM) : (s.writeSnap b).dbgTlen = s.dbgTlen := rfl
@[simp] theorem State.writeSnap_mem (b : SnapBank NUM) : (s.writeSnap b).mem = s.mem := rfl
@[simp] theorem State.writeSnap_agenda (b : SnapBank NUM) : (s.writeSnap b).agenda = s.agenda := rfl
@[simp] theorem State.writeSnap_answer (b : SnapBank NUM) : (s.writeSnap b).answer = s.answer := rfl

variable (f : Status)

@[simp] theorem Status.launched_busy : f.launched.busy = true := rfl
@[simp] theorem Status.launched_done : f.launched.done = false := rfl
@[simp] theorem Status.launched_err : f.launched.err = false := rfl
@[simp] theorem Status.launched_errSticky : f.launched.errSticky = f.errSticky := rfl
@[simp] theorem Status.launched_resultValid : f.launched.resultValid = f.resultValid := rfl
@[simp] theorem Status.launched_snapValid : f.launched.snapValid = f.snapValid := rfl
@[simp] theorem Status.launched_dbgValid : f.launched.dbgValid = f.dbgValid := rfl
@[simp] theorem Status.launched_specialValid : f.launched.specialValid = f.specialValid := rfl
@[simp] theorem Status.launched_clockAborted : f.launched.clockAborted = f.clockAborted := rfl
@[simp] theorem Status.launched_short : f.launched.short = f.short := rfl
@[simp] theorem Status.launched_hostViol : f.launched.hostViol = f.hostViol := rfl

@[simp] theorem Status.runCleared_busy : f.runCleared.busy = f.busy := rfl
@[simp] theorem Status.runCleared_done : f.runCleared.done = f.done := rfl
@[simp] theorem Status.runCleared_err : f.runCleared.err = f.err := rfl
@[simp] theorem Status.runCleared_errSticky : f.runCleared.errSticky = f.errSticky := rfl
@[simp] theorem Status.runCleared_resultValid : f.runCleared.resultValid = false := rfl
@[simp] theorem Status.runCleared_snapValid : f.runCleared.snapValid = false := rfl
@[simp] theorem Status.runCleared_dbgValid : f.runCleared.dbgValid = false := rfl
@[simp] theorem Status.runCleared_specialValid : f.runCleared.specialValid = f.specialValid := rfl
@[simp] theorem Status.runCleared_clockAborted : f.runCleared.clockAborted = false := rfl
@[simp] theorem Status.runCleared_short : f.runCleared.short = false := rfl
@[simp] theorem Status.runCleared_hostViol : f.runCleared.hostViol = f.hostViol := rfl

@[simp] theorem Status.specialCleared_busy : f.specialCleared.busy = f.busy := rfl
@[simp] theorem Status.specialCleared_done : f.specialCleared.done = f.done := rfl
@[simp] theorem Status.specialCleared_err : f.specialCleared.err = f.err := rfl
@[simp] theorem Status.specialCleared_errSticky : f.specialCleared.errSticky = f.errSticky := rfl
@[simp] theorem Status.specialCleared_resultValid : f.specialCleared.resultValid = f.resultValid := rfl
@[simp] theorem Status.specialCleared_snapValid : f.specialCleared.snapValid = f.snapValid := rfl
@[simp] theorem Status.specialCleared_dbgValid : f.specialCleared.dbgValid = f.dbgValid := rfl
@[simp] theorem Status.specialCleared_specialValid : f.specialCleared.specialValid = false := rfl
@[simp] theorem Status.specialCleared_clockAborted : f.specialCleared.clockAborted = f.clockAborted := rfl
@[simp] theorem Status.specialCleared_short : f.specialCleared.short = f.short := rfl
@[simp] theorem Status.specialCleared_hostViol : f.specialCleared.hostViol = f.hostViol := rfl

@[simp] theorem Status.completed_busy : f.completed.busy = false := rfl
@[simp] theorem Status.completed_done : f.completed.done = true := rfl
@[simp] theorem Status.completed_err : f.completed.err = f.err := rfl
@[simp] theorem Status.completed_errSticky : f.completed.errSticky = f.errSticky := rfl
@[simp] theorem Status.completed_resultValid : f.completed.resultValid = f.resultValid := rfl
@[simp] theorem Status.completed_snapValid : f.completed.snapValid = f.snapValid := rfl
@[simp] theorem Status.completed_dbgValid : f.completed.dbgValid = f.dbgValid := rfl
@[simp] theorem Status.completed_specialValid : f.completed.specialValid = f.specialValid := rfl
@[simp] theorem Status.completed_clockAborted : f.completed.clockAborted = f.clockAborted := rfl
@[simp] theorem Status.completed_short : f.completed.short = f.short := rfl
@[simp] theorem Status.completed_hostViol : f.completed.hostViol = f.hostViol := rfl

@[simp] theorem Status.failed_busy : f.failed.busy = false := rfl
@[simp] theorem Status.failed_done : f.failed.done = f.done := rfl
@[simp] theorem Status.failed_err : f.failed.err = true := rfl
@[simp] theorem Status.failed_errSticky : f.failed.errSticky = true := rfl
@[simp] theorem Status.failed_resultValid : f.failed.resultValid = f.resultValid := rfl
@[simp] theorem Status.failed_snapValid : f.failed.snapValid = f.snapValid := rfl
@[simp] theorem Status.failed_dbgValid : f.failed.dbgValid = f.dbgValid := rfl
@[simp] theorem Status.failed_specialValid : f.failed.specialValid = f.specialValid := rfl
@[simp] theorem Status.failed_clockAborted : f.failed.clockAborted = f.clockAborted := rfl
@[simp] theorem Status.failed_short : f.failed.short = f.short := rfl
@[simp] theorem Status.failed_hostViol : f.failed.hostViol = f.hostViol := rfl

@[simp] theorem Status.violated_busy : f.violated.busy = f.busy := rfl
@[simp] theorem Status.violated_done : f.violated.done = f.done := rfl
@[simp] theorem Status.violated_err : f.violated.err = f.err := rfl
@[simp] theorem Status.violated_errSticky : f.violated.errSticky = f.errSticky := rfl
@[simp] theorem Status.violated_resultValid : f.violated.resultValid = f.resultValid := rfl
@[simp] theorem Status.violated_snapValid : f.violated.snapValid = f.snapValid := rfl
@[simp] theorem Status.violated_dbgValid : f.violated.dbgValid = f.dbgValid := rfl
@[simp] theorem Status.violated_specialValid : f.violated.specialValid = f.specialValid := rfl
@[simp] theorem Status.violated_clockAborted : f.violated.clockAborted = f.clockAborted := rfl
@[simp] theorem Status.violated_short : f.violated.short = f.short := rfl
@[simp] theorem Status.violated_hostViol : f.violated.hostViol = true := rfl

@[simp] theorem Status.acknowledged_busy : f.acknowledged.busy = f.busy := rfl
@[simp] theorem Status.acknowledged_done : f.acknowledged.done = f.done := rfl
@[simp] theorem Status.acknowledged_err : f.acknowledged.err = f.err := rfl
@[simp] theorem Status.acknowledged_errSticky : f.acknowledged.errSticky = false := rfl
@[simp] theorem Status.acknowledged_resultValid : f.acknowledged.resultValid = f.resultValid := rfl
@[simp] theorem Status.acknowledged_snapValid : f.acknowledged.snapValid = f.snapValid := rfl
@[simp] theorem Status.acknowledged_dbgValid : f.acknowledged.dbgValid = f.dbgValid := rfl
@[simp] theorem Status.acknowledged_specialValid : f.acknowledged.specialValid = f.specialValid := rfl
@[simp] theorem Status.acknowledged_clockAborted : f.acknowledged.clockAborted = f.clockAborted := rfl
@[simp] theorem Status.acknowledged_short : f.acknowledged.short = f.short := rfl
@[simp] theorem Status.acknowledged_hostViol : f.acknowledged.hostViol = false := rfl

@[simp] theorem Status.snapTouched_busy : f.snapTouched.busy = f.busy := rfl
@[simp] theorem Status.snapTouched_done : f.snapTouched.done = f.done := rfl
@[simp] theorem Status.snapTouched_err : f.snapTouched.err = f.err := rfl
@[simp] theorem Status.snapTouched_errSticky : f.snapTouched.errSticky = f.errSticky := rfl
@[simp] theorem Status.snapTouched_resultValid : f.snapTouched.resultValid = f.resultValid := rfl
@[simp] theorem Status.snapTouched_snapValid : f.snapTouched.snapValid = false := rfl
@[simp] theorem Status.snapTouched_dbgValid : f.snapTouched.dbgValid = f.dbgValid := rfl
@[simp] theorem Status.snapTouched_specialValid : f.snapTouched.specialValid = f.specialValid := rfl
@[simp] theorem Status.snapTouched_clockAborted : f.snapTouched.clockAborted = f.clockAborted := rfl
@[simp] theorem Status.snapTouched_short : f.snapTouched.short = f.short := rfl
@[simp] theorem Status.snapTouched_hostViol : f.snapTouched.hostViol = f.hostViol := rfl

@[simp] theorem Status.specialDone_busy : f.specialDone.busy = f.busy := rfl
@[simp] theorem Status.specialDone_done : f.specialDone.done = f.done := rfl
@[simp] theorem Status.specialDone_err : f.specialDone.err = f.err := rfl
@[simp] theorem Status.specialDone_errSticky : f.specialDone.errSticky = f.errSticky := rfl
@[simp] theorem Status.specialDone_resultValid : f.specialDone.resultValid = f.resultValid := rfl
@[simp] theorem Status.specialDone_snapValid : f.specialDone.snapValid = f.snapValid := rfl
@[simp] theorem Status.specialDone_dbgValid : f.specialDone.dbgValid = f.dbgValid := rfl
@[simp] theorem Status.specialDone_specialValid : f.specialDone.specialValid = true := rfl
@[simp] theorem Status.specialDone_clockAborted : f.specialDone.clockAborted = f.clockAborted := rfl
@[simp] theorem Status.specialDone_short : f.specialDone.short = f.short := rfl
@[simp] theorem Status.specialDone_hostViol : f.specialDone.hostViol = f.hostViol := rfl

@[simp] theorem Status.runDone_busy (d a h : Bool) : (f.runDone d a h).busy = f.busy := rfl
@[simp] theorem Status.runDone_done (d a h : Bool) : (f.runDone d a h).done = f.done := rfl
@[simp] theorem Status.runDone_err (d a h : Bool) : (f.runDone d a h).err = f.err := rfl
@[simp] theorem Status.runDone_errSticky (d a h : Bool) : (f.runDone d a h).errSticky = f.errSticky := rfl
@[simp] theorem Status.runDone_resultValid (d a h : Bool) : (f.runDone d a h).resultValid = true := rfl
@[simp] theorem Status.runDone_snapValid (d a h : Bool) : (f.runDone d a h).snapValid = true := rfl
@[simp] theorem Status.runDone_dbgValid (d a h : Bool) : (f.runDone d a h).dbgValid = (f.dbgValid || d) := rfl
@[simp] theorem Status.runDone_specialValid (d a h : Bool) : (f.runDone d a h).specialValid = f.specialValid := rfl
@[simp] theorem Status.runDone_clockAborted (d a h : Bool) : (f.runDone d a h).clockAborted = a := rfl
@[simp] theorem Status.runDone_short (d a h : Bool) : (f.runDone d a h).short = h := rfl
@[simp] theorem Status.runDone_hostViol (d a h : Bool) : (f.runDone d a h).hostViol = f.hostViol := rfl

@[simp] theorem Status.reset_busy : Status.reset.busy = false := rfl
@[simp] theorem Status.reset_done : Status.reset.done = false := rfl
@[simp] theorem Status.reset_err : Status.reset.err = false := rfl
@[simp] theorem Status.reset_errSticky : Status.reset.errSticky = false := rfl
@[simp] theorem Status.reset_resultValid : Status.reset.resultValid = false := rfl
@[simp] theorem Status.reset_snapValid : Status.reset.snapValid = false := rfl
@[simp] theorem Status.reset_dbgValid : Status.reset.dbgValid = false := rfl
@[simp] theorem Status.reset_specialValid : Status.reset.specialValid = false := rfl
@[simp] theorem Status.reset_clockAborted : Status.reset.clockAborted = false := rfl
@[simp] theorem Status.reset_short : Status.reset.short = false := rfl
@[simp] theorem Status.reset_hostViol : Status.reset.hostViol = false := rfl

/-! The content of one buffer after an update. -/

@[simp] theorem State.setBuf_buf_self (b : BufId) (a : List (Cx NUM)) : (s.setBuf b a).buf b = a := by
  simp [State.buf]

theorem State.setBuf_buf_ne (b c : BufId) (a : List (Cx NUM)) (h : b ≠ c) : (s.setBuf b a).buf c = s.buf c := by
  have : b.val ≠ c.val := fun e => h (Fin.ext e)
  simp [State.buf, Vector.getElem_set_ne, this]

/-- A buffer after the write of one buffer. -/
theorem State.setBuf_buf (b c : BufId) (a : List (Cx NUM)) :
    (s.setBuf b a).buf c = if b = c then a else s.buf c := by
  split
  · subst_vars; exact State.setBuf_buf_self s _ a
  · exact State.setBuf_buf_ne s b c a ‹_›

@[simp] theorem State.setI0_buf (w : Word) (b : BufId) : (s.setI0 w).buf b = s.buf b := rfl
@[simp] theorem State.setI1_buf (w : Word) (b : BufId) : (s.setI1 w).buf b = s.buf b := rfl
@[simp] theorem State.setN0_buf (x : NUM) (b : BufId) : (s.setN0 x).buf b = s.buf b := rfl
@[simp] theorem State.setN1_buf (x : NUM) (b : BufId) : (s.setN1 x).buf b = s.buf b := rfl
@[simp] theorem State.fail_buf (e : ErrCode) (b : BufId) : (s.fail e).buf b = s.buf b := rfl
@[simp] theorem State.succeed_buf (b : BufId) : s.succeed.buf b = s.buf b := rfl
@[simp] theorem State.refuse_buf (b : BufId) : s.refuse.buf b = s.buf b := rfl
@[simp] theorem State.resetBlock_buf (b : BufId) : s.resetBlock.buf b = [] := by
  simp [State.buf, State.reset]

theorem State.clearForRun_buf (b : BufId) :
    s.clearForRun.buf b = if b = BufId.out ∨ b = BufId.dbgTone ∨ b = BufId.dbgPre then [] else s.buf b := by
  simp only [State.clearForRun, State.setBuf_buf]
  by_cases h1 : b = BufId.out <;> by_cases h2 : b = BufId.dbgTone <;> by_cases h3 : b = BufId.dbgPre <;>
    simp_all [eq_comm, State.buf]

theorem State.clearForSpecial_buf (b : BufId) :
    s.clearForSpecial.buf b = if b = BufId.spoE ∨ b = BufId.spoES then [] else s.buf b := by
  simp only [State.clearForSpecial, State.setBuf_buf]
  by_cases h1 : b = BufId.spoE <;> by_cases h2 : b = BufId.spoES <;> simp_all [eq_comm, State.buf]

/-- The two ways a command completes. -/
@[simp] theorem State.complete_ok (t : State) : s.complete (.ok t) = t.succeed := rfl
@[simp] theorem State.complete_error (e : ErrCode) : s.complete (.error e) = s.fail e := rfl

/-- What a completion can be: the failure update, or a state with the destinations written. -/
theorem State.complete_cases (r : Except ErrCode State) :
    (∃ e, r = .error e ∧ s.complete r = s.fail e) ∨ (∃ t, r = .ok t ∧ s.complete r = t.succeed) := by
  cases r with
  | error e => exact .inl ⟨e, rfl, rfl⟩
  | ok t => exact .inr ⟨t, rfl, rfl⟩

end Sys2Proof.Machine
end

