-- ==== Sys2Proof/Laws/Memory.lean ====
section
/-! SUPPORT. The buffers: every memory operation keeps `Memory.wf`, the reset state has it, and a read after a
write (20_memory.md R60 to R63, 10_state.md R33). -/

namespace Sys2Proof.Machine

/-- The form of the memory, buffer by buffer. -/
theorem Memory.wf_iff (m : Memory) : m.wf = true ↔ ∀ b : BufId, m[b].length ≤ Config.bufMax := by
  unfold Memory.wf
  rw [Vector.all_eq_true]
  constructor
  · intro h b; simpa using h b.val b.isLt
  · intro h i hi; simpa using h ⟨i, hi⟩

theorem State.wf_iff (s : State) : s.mem.wf = true ↔ ∀ b : BufId, (s.buf b).length ≤ Config.bufMax :=
  Memory.wf_iff s.mem

theorem Memory.wf_reset : State.reset.mem.wf = true := by
  rw [State.wf_iff]
  intro b
  simp [State.buf, State.reset]

theorem Memory.wf_set (m : Memory) (b : BufId) (a : List (Cx NUM)) (h : m.wf = true)
    (ha : a.length ≤ Config.bufMax) : Memory.wf (m.set b a) = true := by
  rw [Memory.wf_iff] at h ⊢
  intro c
  by_cases e : b.val = c.val
  · simpa [Vector.getElem_set, e] using ha
  · simpa [Vector.getElem_set, e] using h c

/-- Writing a buffer that is not too long keeps the form. -/
theorem State.setBuf_wf (s : State) (b : BufId) (a : List (Cx NUM)) (h : s.mem.wf = true)
    (ha : a.length ≤ Config.bufMax) : (s.setBuf b a).mem.wf = true :=
  Memory.wf_set s.mem b a h ha

theorem resize_length (a : List (Cx NUM)) (n : ℕ) : (resize a n).length = n := by
  simp only [resize, List.length_append, List.length_take, List.length_replicate]
  omega

/-- A write of a length register keeps the form, accepted or refused. -/
theorem State.writeLen_wf (s : State) (b : BufId) (w : Word) (h : s.mem.wf = true) :
    (s.writeLen b w).mem.wf = true := by
  unfold State.writeLen
  split
  · exact s.setBuf_wf b _ h (by rw [resize_length]; assumption)
  · exact h

/-- A write of one element keeps the form, accepted or refused. -/
theorem State.bufWrite_wf (s : State) (b i : ℕ) (v : Cx NUM) (h : s.mem.wf = true) :
    (s.bufWrite b i v).mem.wf = true := by
  unfold State.bufWrite
  split
  · exact h
  · split
    · exact h
    · exact s.setBuf_wf _ _ h (by rw [List.length_set]; exact (s.wf_iff.mp h) _)

theorem State.clearForRun_wf (s : State) (h : s.mem.wf = true) : s.clearForRun.mem.wf = true := by
  rw [State.wf_iff] at h ⊢
  intro b
  rw [State.clearForRun_buf]
  split
  · simp
  · exact h b

theorem State.clearForSpecial_wf (s : State) (h : s.mem.wf = true) : s.clearForSpecial.mem.wf = true := by
  rw [State.wf_iff] at h ⊢
  intro b
  rw [State.clearForSpecial_buf]
  split
  · simp
  · exact h b

/-- The launch keeps the form. -/
theorem State.launch_wf (s : State) (w : Word) (h : s.mem.wf = true) : (s.launch w).mem.wf = true := by
  unfold State.launch State.launchClears
  split
  · exact s.clearForRun_wf h
  · exact s.clearForSpecial_wf h
  · exact h

/-- Every register write keeps the form. -/
theorem Reg.write_wf (s : State) (w : Word) (x : NUM) (r : Reg) (h : s.mem.wf = true) :
    (r.write s w x).mem.wf = true := by
  cases r with
  | cmd => exact s.launch_wf w h
  | len b => exact s.writeLen_wf b w h
  | _ => exact h

/-- Every register write of the host keeps the form, accepted or refused. -/
theorem State.regWrite_wf (s : State) (n : ℕ) (w : Word) (x : NUM) (h : s.mem.wf = true) :
    (s.regWrite n w x).mem.wf = true := by
  unfold State.regWrite
  split
  · exact h
  · split
    · exact h
    · exact Reg.write_wf s w x _ h

/-- Every host access keeps the form. -/
theorem State.hostAccess_wf (s : State) (a : HostAction) (h : s.mem.wf = true) :
    (s.hostAccess a).mem.wf = true := by
  cases a with
  | regRead n =>
    simp only [State.hostAccess, State.regRead]
    split
    · exact h
    · split <;> exact h
  | regWrite n w x => exact s.regWrite_wf n w x h
  | regCopy n => exact s.regWrite_wf n _ _ h
  | bufRead b i =>
    simp only [State.hostAccess, State.bufRead]
    split <;> exact h
  | bufWrite b i v => exact s.bufWrite_wf b i v h

/-- A completion keeps the form when its successful outcome does. -/
theorem State.complete_wf (s : State) (r : Except ErrCode State) (h : s.mem.wf = true)
    (hr : ∀ t, r = .ok t → t.mem.wf = true) : (s.complete r).mem.wf = true := by
  obtain ⟨e, -, he⟩ | ⟨t, ht, he⟩ := s.complete_cases r
  · rw [he]; exact h
  · rw [he]; exact hr t ht

/-! Reading after writing. -/

theorem Memory.read_lt (m : Memory) (b : BufId) (i : ℕ) : m.read b.val i = m[b][i]? := by
  simp [Memory.read]

theorem Memory.read_set_self (m : Memory) (b : BufId) (a : List (Cx NUM)) (i : ℕ) :
    Memory.read (m.set b a) b.val i = a[i]? := by
  simp [Memory.read]

theorem Memory.read_set_ne (m : Memory) (b : BufId) (c : ℕ) (a : List (Cx NUM)) (i : ℕ) (h : b.val ≠ c) :
    Memory.read (m.set b a) c i = m.read c i := by
  unfold Memory.read
  split
  · simp [h]
  · rfl

/-- Reading the element just written gives it; every other element reads as before. -/
theorem State.setBuf_set_read (s : State) (b : BufId) (i : ℕ) (v : Cx NUM) (c j : ℕ)
    (hi : i < (s.buf b).length) :
    (s.setBuf b ((s.buf b).set i v)).mem.read c j = if c = b.val ∧ j = i then some v else s.mem.read c j := by
  rw [State.setBuf_mem]
  by_cases hc : b.val = c
  · subst hc
    rw [Memory.read_set_self, Memory.read_lt, List.getElem?_set]
    by_cases hj : i = j
    · subst hj; simp [hi]
    · simp [hj, Ne.symm hj, State.buf]
  · rw [Memory.read_set_ne _ _ _ _ _ hc]
    simp [Ne.symm hc]

end Sys2Proof.Machine
end

