-- ==== Sys2Proof/Laws/Numeral.lean ====
section
/-! SUPPORT. Every smart operation of Machine/Numeral.lean is the operation of the real numbers on the
numbers that the terms stand for (00_scope.md R13). -/

namespace Sys2Proof

open Machine

@[simp] theorem NUM.toReal_rat (q : Rat) : (NUM.rat q).toReal = q := rfl
@[simp] theorem NUM.toReal_pi : NUM.pi.toReal = Real.pi := rfl

/-- A term is its rational factor times the rest. -/
theorem NUM.toReal_split (a : NUM) : (a.split.1 : ℝ) * a.split.2.toReal = a.toReal := by
  unfold NUM.split
  split <;> simp [NUM.toReal]

theorem NUM.toReal_scale (q : Rat) (a : NUM) : (NUM.scale q a).toReal = q * a.toReal := by
  rw [← NUM.toReal_split a]
  unfold NUM.scale
  split
  · simp [NUM.split, NUM.toReal]
  · split
    · simp_all [NUM.toReal]
    · split
      · rename_i h
        rw [← mul_assoc, ← Rat.cast_mul, h, Rat.cast_one, one_mul]
      · simp [NUM.toReal, mul_assoc]

theorem NUM.isUnitPair_spec {a b : NUM} (h : NUM.isUnitPair a b = true) : a.toReal + b.toReal = 1 := by
  unfold NUM.isUnitPair at h
  split at h
  · simp only [Bool.and_eq_true, decide_eq_true_eq] at h
    obtain ⟨⟨rfl, rfl⟩, rfl⟩ := h
    simp only [NUM.toReal]
    nlinarith [Real.sin_sq_add_cos_sq (NUM.toReal ‹NUM›)]
  · cases h

theorem NUM.toReal_add (a b : NUM) : (a.add b).toReal = a.toReal + b.toReal := by
  have ha := NUM.toReal_split a
  have hb := NUM.toReal_split b
  unfold NUM.add
  split
  · simp [NUM.toReal]
  · split
    · simp_all
    · split
      · simp_all
      · split
        · rename_i h
          rw [NUM.toReal_scale, ← ha, ← hb, ← h, Rat.cast_add, add_mul]
        · split
          · rename_i h
            rw [← ha, ← hb, ← h.1, ← mul_add, NUM.isUnitPair_spec h.2, mul_one, NUM.toReal_rat]
          · rfl

theorem NUM.toReal_sub (a b : NUM) : (a.sub b).toReal = a.toReal - b.toReal := by
  simp [NUM.sub, NUM.toReal_add, NUM.toReal_scale, sub_eq_add_neg]

theorem NUM.toReal_mul (a b : NUM) : (a.mul b).toReal = a.toReal * b.toReal := by
  unfold NUM.mul
  split
  · rw [NUM.toReal_scale]; rfl
  · rw [NUM.toReal_scale, mul_comm]; rfl
  · rw [NUM.toReal_scale, ← NUM.toReal_split a, ← NUM.toReal_split b]
    simp only [NUM.toReal, Rat.cast_mul]; ring

theorem NUM.toReal_div (a b : NUM) : (a.div b).toReal = a.toReal / b.toReal := by
  have ha := NUM.toReal_split a
  have hb := NUM.toReal_split b
  unfold NUM.div
  split
  · rw [NUM.toReal_scale, Rat.cast_inv, NUM.toReal_rat, div_eq_inv_mul]
  · split
    · simp_all [NUM.toReal]
    · rw [NUM.toReal_scale, ← hb]
      simp only [NUM.toReal, Rat.cast_div]
      rw [Rat.cast_one, div_mul_div_comm, mul_one]
  · split
    · rename_i h
      rw [← ha, ← hb, h.1, h.2, NUM.toReal_rat, NUM.toReal_pi, Rat.cast_div,
        mul_div_mul_right _ _ Real.pi_ne_zero]
    · rw [NUM.toReal_scale, ← ha, ← hb]
      simp only [NUM.toReal, Rat.cast_div]
      rw [div_mul_div_comm]

theorem NUM.toReal_sqrt (a : NUM) : a.sqrt.toReal = Real.sqrt a.toReal := by
  unfold NUM.sqrt
  split
  · rename_i q
    split
    · rename_i h
      rw [NUM.toReal_rat, NUM.toReal_rat, Real.sqrt_eq_zero_of_nonpos (by exact_mod_cast h), Rat.cast_zero]
    · rename_i hq
      dsimp only
      split
      · rename_i h
        have hn : (0 : ℝ) ≤ (isqrt q.num.toNat : ℝ) / (isqrt q.den : ℝ) := by positivity
        rw [NUM.toReal_rat, NUM.toReal_rat]
        refine (Real.sqrt_eq_iff_mul_self_eq (by exact_mod_cast (not_le.mp hq).le) (by push_cast; exact hn)).mpr ?_ |>.symm
        push_cast
        rw [div_mul_div_comm]
        have h1 : (isqrt q.num.toNat : ℝ) * isqrt q.num.toNat = (q.num : ℝ) := by
          have : ((q.num.toNat : ℤ) : ℝ) = (q.num : ℝ) := by
            rw [Int.toNat_of_nonneg (Rat.num_nonneg.mpr (not_le.mp hq).le)]
          rw [← this, Int.cast_natCast]; exact_mod_cast h.1
        have h2 : (isqrt q.den : ℝ) * isqrt q.den = (q.den : ℝ) := by
          exact_mod_cast h.2
        rw [h1, h2]
        exact_mod_cast (Rat.num_divInt_den q).symm
      · rfl
  · rfl

theorem NUM.piMultiple_spec {a : NUM} {q : Rat} (h : a.piMultiple = some q) : a.toReal = q * Real.pi := by
  unfold NUM.piMultiple at h
  split at h
  · split at h
    · cases h; simp_all [NUM.toReal]
    · cases h
  · cases h; simp [NUM.toReal]
  · cases h; rfl
  · cases h

/-- The reduction of an angle by whole turns. -/
theorem halfTurns_spec (q : Rat) : ∃ n : ℤ, (q : ℝ) * Real.pi = (halfTurns q : ℝ) * Real.pi + n * (2 * Real.pi) := by
  refine ⟨(q / 2).floor, ?_⟩
  unfold halfTurns
  push_cast
  ring

theorem halfTurns_nonneg (q : Rat) : 0 ≤ halfTurns q := by
  have h : ((q / 2).floor : Rat) ≤ q / 2 := Int.floor_le (q / 2)
  unfold halfTurns
  linarith

theorem halfTurns_lt (q : Rat) : halfTurns q < 2 := by
  have h : q / 2 < ((q / 2).floor : Rat) + 1 := Int.lt_floor_add_one (q / 2)
  unfold halfTurns
  linarith

theorem cos_halfTurns (q : Rat) : Real.cos ((q : ℝ) * Real.pi) = Real.cos ((halfTurns q : ℝ) * Real.pi) := by
  obtain ⟨n, h⟩ := halfTurns_spec q
  rw [h, Real.cos_add_int_mul_two_pi]

theorem sin_halfTurns (q : Rat) : Real.sin ((q : ℝ) * Real.pi) = Real.sin ((halfTurns q : ℝ) * Real.pi) := by
  obtain ⟨n, h⟩ := halfTurns_spec q
  rw [h, Real.sin_add_int_mul_two_pi]

theorem three_half_pi : (3 / 2 : ℝ) * Real.pi = Real.pi + Real.pi / 2 := by ring

theorem NUM.toReal_cos (a : NUM) : a.cos.toReal = Real.cos a.toReal := by
  unfold NUM.cos
  split
  · rename_i q h
    rw [NUM.piMultiple_spec h, cos_halfTurns]
    split
    · simp_all
    · split
      · rename_i h
        rw [h]; simp [NUM.toReal, ← div_eq_inv_mul]
      · split
        · simp_all
        · split
          · rename_i h
            rw [h]; push_cast
            rw [three_half_pi, add_comm, Real.cos_add_pi]; simp
          · simp [NUM.toReal, NUM.toReal_scale]
  · rfl

theorem NUM.toReal_sin (a : NUM) : a.sin.toReal = Real.sin a.toReal := by
  unfold NUM.sin
  split
  · rename_i q h
    rw [NUM.piMultiple_spec h, sin_halfTurns]
    split
    · simp_all
    · split
      · rename_i h
        rw [h]; simp [NUM.toReal, ← div_eq_inv_mul]
      · split
        · simp_all
        · split
          · rename_i h
            rw [h]; push_cast
            rw [three_half_pi, add_comm, Real.sin_add_pi]; simp
          · simp [NUM.toReal, NUM.toReal_scale]
  · rfl

theorem principalHalfTurns_mem (q : Rat) :
    -1 < principalHalfTurns q ∧ principalHalfTurns q ≤ 1 := by
  have h0 := halfTurns_nonneg q
  have h2 := halfTurns_lt q
  unfold principalHalfTurns
  split <;> constructor <;> linarith

theorem principalHalfTurns_spec (q : Rat) :
    ∃ n : ℤ, (q : ℝ) * Real.pi = (principalHalfTurns q : ℝ) * Real.pi + n * (2 * Real.pi) := by
  obtain ⟨n, h⟩ := halfTurns_spec q
  unfold principalHalfTurns
  split
  · exact ⟨n + 1, by rw [h]; push_cast; ring⟩
  · exact ⟨n, h⟩

/-- The argument of a point of the unit circle at a multiple of the circle constant. -/
theorem arg_cis_pi (q : Rat) :
    Complex.arg ⟨Real.cos ((q : ℝ) * Real.pi), Real.sin ((q : ℝ) * Real.pi)⟩ = (principalHalfTurns q : ℝ) * Real.pi := by
  obtain ⟨n, h⟩ := principalHalfTurns_spec q
  have hm := principalHalfTurns_mem q
  have h1 : (-1 : ℝ) < principalHalfTurns q := by exact_mod_cast hm.1
  have h2 : (principalHalfTurns q : ℝ) ≤ 1 := by exact_mod_cast hm.2
  have hp := Real.pi_pos
  rw [h, Real.cos_add_int_mul_two_pi, Real.sin_add_int_mul_two_pi]
  have : (⟨Real.cos ((principalHalfTurns q : ℝ) * Real.pi), Real.sin ((principalHalfTurns q : ℝ) * Real.pi)⟩ : ℂ)
      = Complex.cos (((principalHalfTurns q : ℝ) * Real.pi : ℝ) : ℂ)
        + Complex.sin (((principalHalfTurns q : ℝ) * Real.pi : ℝ) : ℂ) * Complex.I := by
    apply Complex.ext <;> simp [Complex.cos_ofReal_re, Complex.sin_ofReal_re, Complex.cos_ofReal_im, Complex.sin_ofReal_im, -Complex.ofReal_mul]
  rw [this, Complex.arg_cos_add_sin_mul_I ⟨by nlinarith, by nlinarith⟩]

theorem NUM.toReal_atan2 (y x : NUM) : (NUM.atan2 y x).toReal = Complex.arg ⟨x.toReal, y.toReal⟩ := by
  unfold NUM.atan2
  split
  · rename_i y x
    split
    · rename_i hy
      subst hy
      have e : (⟨(NUM.rat x).toReal, (NUM.rat 0).toReal⟩ : ℂ) = ((x : ℝ) : ℂ) := by
        apply Complex.ext <;> simp
      rw [e]
      split
      · rename_i h
        rw [Complex.arg_ofReal_of_nonneg (by exact_mod_cast h)]; simp
      · rename_i h
        rw [Complex.arg_ofReal_of_neg (by exact_mod_cast not_le.mp h)]; rfl
    · rename_i hy
      split
      · rename_i hx
        subst hx
        have e : (⟨(NUM.rat 0).toReal, (NUM.rat y).toReal⟩ : ℂ) = ((y : ℝ) : ℂ) * Complex.I := by
          apply Complex.ext <;> simp
        rw [e]
        split
        · rename_i h
          have h' : (0 : ℝ) < (y : ℝ) := by exact_mod_cast h
          rw [Complex.arg_real_mul _ h', Complex.arg_I, NUM.toReal_scale]
          simp [NUM.toReal, ← div_eq_inv_mul]
        · rename_i h
          have h' : (0 : ℝ) < ((-y : ℚ) : ℝ) := by
            exact_mod_cast neg_pos.mpr (lt_of_le_of_ne (not_lt.mp h) hy)
          have e2 : ((y : ℝ) : ℂ) * Complex.I = (((-y : ℚ) : ℝ) : ℂ) * (-Complex.I) := by push_cast; ring
          rw [e2, Complex.arg_real_mul _ h', Complex.arg_neg_I, NUM.toReal_scale]
          simp [NUM.toReal]; ring
      · rfl
  · rename_i a b
    split
    · rename_i q h
      split
      · rename_i hab
        subst hab
        rw [NUM.toReal_scale]
        simp only [NUM.toReal]
        rw [NUM.piMultiple_spec h, arg_cis_pi]
      · rfl
    · rfl
  · rfl

end Sys2Proof
end

