-- ==== Sys2Proof/Laws/PerInstr.lean ====
section
/-! SUPPORT. The family of per-command lemmas on the encoded word: ZERO is 0, and every buffer field names a
buffer (30_encoding.md R80, R83; 10_state.md R40). -/

namespace Sys2Proof.Laws.EncodedFields

/-- The word of a command has ZERO = 0, and its fields BD, BS and BT are below 12. -/
def Statement (i : Instr) : Prop :=
  (encode i).toNat / 2 ^ 20 = 0 ∧ fieldBd (encode i) < 12 ∧ fieldBs (encode i) < 12 ∧ fieldBt (encode i) < 12

/-- The fields of a word that is put together from a one-byte opcode and three buffer numbers. -/
theorem commandWord_fields (op : Nat) (hop : op < 2 ^ 8) (bd bs bt : BufId) :
    (commandWord op bd bs bt).toNat / 2 ^ 20 = 0
    ∧ fieldBd (commandWord op bd bs bt) = bd ∧ fieldBs (commandWord op bd bs bt) = bs
    ∧ fieldBt (commandWord op bd bs bt) = bt := by
  have hd := bd.isLt
  have hs := bs.isLt
  have ht := bt.isLt
  simp only [fieldBd, fieldBs, fieldBt, commandWord, BitVec.toNat_ofNat]
  omega

/-- The statement for a word in that form. -/
theorem fields_of_parts (op : Nat) (hop : op < 2 ^ 8) (bd bs bt : BufId) :
    (commandWord op bd bs bt).toNat / 2 ^ 20 = 0 ∧ fieldBd (commandWord op bd bs bt) < 12
    ∧ fieldBs (commandWord op bd bs bt) < 12 ∧ fieldBt (commandWord op bd bs bt) < 12 := by
  obtain ⟨h0, h1, h2, h3⟩ := commandWord_fields op hop bd bs bt
  rw [h1, h2, h3]
  exact ⟨h0, bd.isLt, bs.isLt, bt.isLt⟩

theorem nop : Statement .nop := fields_of_parts 0x00 (by decide) 0 0 0
theorem clrerr : Statement .clrerr := fields_of_parts 0x01 (by decide) 0 0 0
theorem sreset : Statement .sreset := fields_of_parts 0x02 (by decide) 0 0 0
theorem downsample (bd bs : BufId) : Statement (.downsample bd bs) := fields_of_parts 0x10 (by decide) bd bs 0
theorem bestpoint (bs : BufId) : Statement (.bestpoint bs) := fields_of_parts 0x11 (by decide) 0 bs 0
theorem zcgen (bd : BufId) : Statement (.zcgen bd) := fields_of_parts 0x20 (by decide) bd 0 0
theorem sync (bs : BufId) : Statement (.sync bs) := fields_of_parts 0x21 (by decide) 0 bs 0
theorem find1 (bs : BufId) : Statement (.find1 bs) := fields_of_parts 0x30 (by decide) 0 bs 0
theorem find2 (bs : BufId) : Statement (.find2 bs) := fields_of_parts 0x31 (by decide) 0 bs 0
theorem tone (bd bs : BufId) : Statement (.tone bd bs) := fields_of_parts 0x32 (by decide) bd bs 0
theorem eqrate (bs : BufId) : Statement (.eqrate bs) := fields_of_parts 0x33 (by decide) 0 bs 0
theorem phnoise (bd bs : BufId) : Statement (.phnoise bd bs) := fields_of_parts 0x34 (by decide) bd bs 0
theorem phcorr (bd bs bt : BufId) : Statement (.phcorr bd bs bt) := fields_of_parts 0x35 (by decide) bd bs bt
theorem fshift (bd bs : BufId) : Statement (.fshift bd bs) := fields_of_parts 0x40 (by decide) bd bs 0
theorem mfilt (bd bs : BufId) : Statement (.mfilt bd bs) := fields_of_parts 0x41 (by decide) bd bs 0
theorem run : Statement .run := fields_of_parts 0x50 (by decide) 0 0 0
theorem special : Statement .special := fields_of_parts 0x51 (by decide) 0 0 0

end Sys2Proof.Laws.EncodedFields
end

