-- ==== Sys2Proof/Laws/Pipeline.lean ====
section
/-! SUPPORT. What a RUN that succeeds has done, over any number domain (45_pipeline.md). -/

namespace Sys2Proof.Machine

variable {R : Type} (A : Arith R)

/-- A sequence of two steps that succeeds. -/
theorem Except.bind_ok {ε α β : Type} {x : Except ε α} {f : α → Except ε β} {b : β}
    (h : (x >>= f) = .ok b) : ∃ a, x = .ok a ∧ f a = .ok b := by
  cases x with
  | error e => cases h
  | ok a => exact ⟨a, rfl, h⟩

/-- The loop delivers one entry per subframe (R220). -/
theorem Arith.subframes_length (P : Plan R) :
    ∀ (n j b : ℕ) (fs : List (Subframe R)), A.subframes P n j b = .ok fs → fs.length = n
  | 0, _, _, fs, h => by cases h; rfl
  | n + 1, j, b, fs, h => by
    unfold Arith.subframes at h
    split at h
    · cases h
    · split at h
      · cases h
      · cases h
        rw [List.length_cons, Arith.subframes_length P n _ _ _ ‹_›]

/-- What RUN checks and computes, in the order of its rules (R200 to R219). -/
structure RunTrace (A : Arith R) (cfg : CfgBank R) (zones : List (R × R)) (cap : List (Cx R)) (o : RunOut R)
    (q : ℕ) (est : Stage1 R) (clock : Stage1 R × Bool) (sy : Synced R) : Prop where
  schema : checkSchema cfg.detectionSchema = .ok ()
  pilots : checkPilots (variantOf cfg.clockShared cfg.loShared) cfg.numPilots.toNat = .ok ()
  operands : A.checkOperands (variantOf cfg.clockShared cfg.loShared) cfg cap.length = .ok q
  stage1 : A.stage1 (variantOf cfg.clockShared cfg.loShared) cfg zones cap = .ok est
  clockAbort : A.clockAbort (variantOf cfg.clockShared cfg.loShared) cfg est = .ok clock
  stage2 : A.stage2 (variantOf cfg.clockShared cfg.loShared) cfg zones cap q clock.1 = .ok sy
  frames : A.subframes ⟨variantOf cfg.clockShared cfg.loShared, cfg, zones, sy.x, sy.e, o.dataEnd, clock.1.equi,
    sy.fBeat, A.div clock.1.equi cfg.symbolRate⟩ (subframeCount cfg) 0 sy.e = .ok o.frames
  variant : o.v = variantOf cfg.clockShared cfg.loShared
  equi : o.equi = clock.1.equi
  aborted : o.aborted = clock.2
  fBeat : o.fBeat = sy.fBeat
  obs0 : o.obs0 = clock.1.obs0
  obs1 : o.obs1 = clock.1.obs1
  start : o.s = sy.s
  stop : o.e = sy.e
  dataEnd : o.dataEnd = A.dataEnd cfg cap.length sy.e (A.div clock.1.equi cfg.symbolRate)
  meanShift : o.meanShift = A.meanShift cfg sy.fBeat o.frames
  symbols : o.symbols.length ≤ Config.bufMax
  preSymbols : o.preSymbols.length ≤ Config.bufMax
  tones : o.tones.length ≤ Config.bufMax

theorem RunOut.checkLengths_ok {o o' : RunOut R} (h : o.checkLengths = .ok o') :
    o' = o ∧ o.symbols.length ≤ Config.bufMax ∧ o.preSymbols.length ≤ Config.bufMax
    ∧ o.tones.length ≤ Config.bufMax := by
  unfold RunOut.checkLengths at h
  split at h
  · cases h
  · cases h
    rename_i hc
    simp only [Bool.or_eq_true, decide_eq_true_eq, not_or, not_lt] at hc
    exact ⟨rfl, hc.1.1, hc.1.2, hc.2⟩

/-- A RUN that succeeds passed every check and did every stage. -/
theorem Arith.run_ok {cfg : CfgBank R} {zones : List (R × R)} {cap : List (Cx R)} {o : RunOut R}
    (h : A.run cfg zones cap = .ok o) :
    ∃ q est clock sy, RunTrace A cfg zones cap o q est clock sy := by
  unfold Arith.run at h
  obtain ⟨_, h1, h⟩ := Except.bind_ok h
  obtain ⟨_, h2, h⟩ := Except.bind_ok h
  obtain ⟨q, h3, h⟩ := Except.bind_ok h
  obtain ⟨est, h4, h⟩ := Except.bind_ok h
  obtain ⟨clock, h5, h⟩ := Except.bind_ok h
  obtain ⟨sy, h6, h⟩ := Except.bind_ok h
  obtain ⟨frames, h7, h⟩ := Except.bind_ok h
  obtain ⟨rfl, h8, h9, h10⟩ := RunOut.checkLengths_ok h
  exact ⟨q, est, clock, sy, h1, h2, h3, h4, h5, h6, h7, rfl, rfl, rfl, rfl, rfl, rfl, rfl, rfl, rfl, rfl, h8, h9, h10⟩

/-- The number of subframes is within the tables (R205, R211). -/
theorem Arith.checkOperands_ok {v : Variant} {cfg : CfgBank R} {N q : ℕ} (h : A.checkOperands v cfg N = .ok q) :
    A.operandsOk v cfg N = true ∧ cfg.sequenceLength.toNat * q ≤ N ∧ subframeCount cfg ≤ Config.maxSf
    ∧ q = (A.floor (A.div cfg.adcRate cfg.sequenceRate)).toNat
    ∧ A.eq (A.int (A.floor (A.div cfg.adcRate cfg.sequenceRate))) (A.div cfg.adcRate cfg.sequenceRate) = true
    ∧ A.lt (A.div cfg.adcRate cfg.sequenceRate) A.one = false := by
  unfold Arith.checkOperands at h
  dsimp only at h
  split at h
  · cases h
  · split at h
    · cases h
    · split at h
      · cases h
      · split at h
        · cases h
        · cases h
          simp_all

/-- A RUN that succeeds has one entry per subframe, and no more than the tables hold. -/
theorem Arith.run_frames {cfg : CfgBank R} {zones : List (R × R)} {cap : List (Cx R)} {o : RunOut R}
    (h : A.run cfg zones cap = .ok o) :
    o.frames.length = subframeCount cfg ∧ subframeCount cfg ≤ Config.maxSf := by
  obtain ⟨q, est, clock, sy, t⟩ := A.run_ok h
  exact ⟨A.subframes_length _ _ _ _ _ t.frames, (A.checkOperands_ok t.operands).2.2.1⟩

end Sys2Proof.Machine
end

