-- ==== Sys2Proof/Laws/Real.lean ====
section
/-! SUPPORT. The arithmetic record of the real numbers, operation by operation, and its complex operations as
those of the complex numbers. -/

namespace Sys2Proof.Machine

@[simp] theorem Arith.real_rat (q : Rat) : Arith.real.rat q = (q : ℝ) := rfl
@[simp] theorem Arith.real_pi : Arith.real.pi = Real.pi := rfl
@[simp] theorem Arith.real_add (a b : ℝ) : Arith.real.add a b = a + b := rfl
@[simp] theorem Arith.real_sub (a b : ℝ) : Arith.real.sub a b = a - b := rfl
@[simp] theorem Arith.real_mul (a b : ℝ) : Arith.real.mul a b = a * b := rfl
@[simp] theorem Arith.real_div (a b : ℝ) : Arith.real.div a b = a / b := rfl
@[simp] theorem Arith.real_sqrt (a : ℝ) : Arith.real.sqrt a = Real.sqrt a := rfl
@[simp] theorem Arith.real_sin (a : ℝ) : Arith.real.sin a = Real.sin a := rfl
@[simp] theorem Arith.real_cos (a : ℝ) : Arith.real.cos a = Real.cos a := rfl
@[simp] theorem Arith.real_atan2 (y x : ℝ) : Arith.real.atan2 y x = Complex.arg ⟨x, y⟩ := rfl
@[simp] theorem Arith.real_lt (a b : ℝ) : Arith.real.lt a b = true ↔ a < b := by simp [Arith.real]
@[simp] theorem Arith.real_lt_false (a b : ℝ) : Arith.real.lt a b = false ↔ b ≤ a := by simp [Arith.real]
@[simp] theorem Arith.real_floor (x : ℝ) : Arith.real.floor x = ⌊x⌋ := rfl
@[simp] theorem Arith.real_int (n : ℤ) : Arith.real.int n = (n : ℝ) := by simp [Arith.int]
@[simp] theorem Arith.real_nat (n : ℕ) : Arith.real.nat n = (n : ℝ) := by simp [Arith.nat]
@[simp] theorem Arith.real_zero : Arith.real.zero = 0 := by simp [Arith.zero]
@[simp] theorem Arith.real_one : Arith.real.one = 1 := by simp [Arith.one]
@[simp] theorem Arith.real_neg (x : ℝ) : Arith.real.neg x = -x := by simp [Arith.neg]
@[simp] theorem Arith.real_le (a b : ℝ) : Arith.real.le a b = true ↔ a ≤ b := by simp [Arith.le]
@[simp] theorem Arith.real_isPos (a : ℝ) : Arith.real.isPos a = true ↔ 0 < a := by simp [Arith.isPos]
@[simp] theorem Arith.real_isPos_false (a : ℝ) : Arith.real.isPos a = false ↔ a ≤ 0 := by simp [Arith.isPos]
@[simp] theorem Arith.real_eq (a b : ℝ) : Arith.real.eq a b = true ↔ a = b := by
  simp only [Arith.eq, Bool.and_eq_true, Bool.not_eq_true', Arith.real_lt_false]
  exact ⟨fun h => le_antisymm h.2 h.1, fun h => ⟨h.ge, h.le⟩⟩
@[simp] theorem Arith.real_twoPi : Arith.real.twoPi = 2 * Real.pi := by simp [Arith.twoPi]
@[simp] theorem Arith.real_ceil (x : ℝ) : Arith.real.ceil x = ⌈x⌉ := by simp [Arith.ceil, Int.floor_neg]
@[simp] theorem Arith.real_abs (x : ℝ) : Arith.real.abs x = |x| := by
  simp only [Arith.abs, Arith.real_lt, Arith.real_zero, Arith.real_neg]
  split
  · exact (abs_of_neg ‹_›).symm
  · exact (abs_of_nonneg (not_lt.mp ‹_›)).symm
@[simp] theorem Arith.real_lesser (a b : ℝ) : Arith.real.lesser a b = min a b := by
  simp only [Arith.lesser, Arith.real_lt]
  split
  · exact (min_eq_right (le_of_lt ‹_›)).symm
  · exact (min_eq_left (not_lt.mp ‹_›)).symm
@[simp] theorem Arith.real_greater (a b : ℝ) : Arith.real.greater a b = max a b := by
  simp only [Arith.greater, Arith.real_lt]
  split
  · exact (max_eq_right (le_of_lt ‹_›)).symm
  · exact (max_eq_left (not_lt.mp ‹_›)).symm

/-- A real sum. -/
theorem Arith.real_sumTo (f : ℕ → ℝ) (n : ℕ) : Arith.real.sumTo f n = ∑ k ∈ Finset.range n, f k := by
  induction n with
  | zero => simp [Arith.sumTo]
  | succ n ih => rw [Finset.sum_range_succ, ← ih]; rfl

theorem Cx.toComplex_inj {x y : Cx ℝ} (h : x.toComplex = y.toComplex) : x = y := by
  cases x; cases y
  simpa [Cx.toComplex, Complex.ext_iff] using h

@[simp] theorem Arith.real_czero : Arith.real.czero.toComplex = 0 := by
  apply Complex.ext <;> simp [Arith.czero, Cx.toComplex]
@[simp] theorem Arith.real_ofReal (x : ℝ) : (Arith.real.ofReal x).toComplex = (x : ℂ) := by
  apply Complex.ext <;> simp [Arith.ofReal, Cx.toComplex]
@[simp] theorem Arith.real_cadd (x y : Cx ℝ) : (Arith.real.cadd x y).toComplex = x.toComplex + y.toComplex := by
  apply Complex.ext <;> simp [Arith.cadd, Cx.toComplex]
@[simp] theorem Arith.real_csub (x y : Cx ℝ) : (Arith.real.csub x y).toComplex = x.toComplex - y.toComplex := by
  apply Complex.ext <;> simp [Arith.csub, Cx.toComplex]
@[simp] theorem Arith.real_cmul (x y : Cx ℝ) : (Arith.real.cmul x y).toComplex = x.toComplex * y.toComplex := by
  apply Complex.ext <;> simp [Arith.cmul, Cx.toComplex]
@[simp] theorem Arith.real_conj (x : Cx ℝ) :
    (Arith.real.conj x).toComplex = (starRingEnd ℂ) x.toComplex := by
  apply Complex.ext <;> simp [Arith.conj, Cx.toComplex]
@[simp] theorem Arith.real_cscale (a : ℝ) (x : Cx ℝ) : (Arith.real.cscale a x).toComplex = a * x.toComplex := by
  apply Complex.ext <;> simp [Arith.cscale, Cx.toComplex]
@[simp] theorem Arith.real_normSq (x : Cx ℝ) : Arith.real.normSq x = Complex.normSq x.toComplex := by
  simp [Arith.normSq, Cx.toComplex, Complex.normSq_apply]
@[simp] theorem Arith.real_cabs (x : Cx ℝ) : Arith.real.cabs x = ‖x.toComplex‖ := by
  simp [Arith.cabs, Complex.norm_def]
@[simp] theorem Arith.real_cis (t : ℝ) : (Arith.real.cis t).toComplex = Complex.exp (t * Complex.I) := by
  rw [Complex.exp_mul_I]
  apply Complex.ext <;>
    simp [Arith.cis, Cx.toComplex, Complex.cos_ofReal_re, Complex.sin_ofReal_re, Complex.cos_ofReal_im,
      Complex.sin_ofReal_im, -Complex.ofReal_cos, -Complex.ofReal_sin]

/-- A complex sum. -/
theorem Arith.real_csumTo (f : ℕ → Cx ℝ) (n : ℕ) :
    (Arith.real.csumTo f n).toComplex = ∑ k ∈ Finset.range n, (f k).toComplex := by
  induction n with
  | zero => simp [Arith.csumTo]
  | succ n ih => rw [Finset.sum_range_succ, ← ih, ← Arith.real_cadd]; rfl

end Sys2Proof.Machine
end

