-- ==== Sys2Proof/Laws/Rules.lean ====
section
/-! SUPPORT. Everything a command can do, said once: its checks and its destinations when it succeeds; and what
a launch can do. Later proofs cite these and unfold no rule. -/

namespace Sys2Proof.Machine

variable {s t : State} {bd bs bt : BufId}

theorem downsampleRule_ok (h : downsampleRule s bd bs = .ok t) :
    destinationOk bd [bs] = true ∧ s.buf bs ≠ [] ∧ numArith.isPos s.arg.factor = true
    ∧ numArith.downsampleLen (s.buf bs).length s.arg.start.toNat s.arg.factor ≤ Config.bufMax
    ∧ t = s.setBuf bd (numArith.downsample numArith.czero (s.buf bs) s.arg.start.toNat s.arg.factor) := by
  unfold downsampleRule at h
  dsimp only at h
  split at h
  · cases h
  · split at h
    · cases h
    · split at h
      · cases h
      · cases h
        simp_all

theorem bestpointRule_ok (h : bestpointRule s bs = .ok t) :
    s.buf bs ≠ [] ∧ numArith.isPos s.arg.factor = true ∧ numArith.ceil s.arg.factor ≤ 2 ^ 32 - 1
    ∧ t = s.setI0 (wordOf (numArith.bestpoint (s.buf bs) s.arg.factor)) := by
  unfold bestpointRule at h
  dsimp only at h
  split at h
  · cases h
  · split at h
    · cases h
    · cases h
      simp_all

theorem zcgenRule_ok (h : zcgenRule s bd = .ok t) :
    destinationOk bd [] = true ∧ s.cfg.sequenceLength.toNat ≠ 0 ∧ s.arg.repeats.toNat ≠ 0
    ∧ s.cfg.sequenceLength.toNat * s.arg.repeats.toNat ≤ Config.bufMax
    ∧ t = s.setBuf bd
        (numArith.reference s.cfg.sequenceRoot.toNat s.cfg.sequenceLength.toNat s.arg.repeats.toNat) := by
  unfold zcgenRule at h
  dsimp only at h
  split at h
  · cases h
  · split at h
    · cases h
    · split at h
      · cases h
      · cases h
        rename_i h1 h2 h3
        simp only [Bool.or_eq_true, beq_iff_eq, not_or] at h2
        exact ⟨by simpa using h1, h2.1, h2.2, not_lt.mp h3, rfl⟩

theorem syncRule_ok (h : syncRule s bs = .ok t) :
    s.cfg.sequenceLength.toNat ≠ 0 ∧ s.arg.repeats.toNat ≠ 0 ∧ 50 ≤ (s.buf bs).length
    ∧ s.cfg.sequenceLength.toNat * s.arg.repeats.toNat ≤ (s.buf bs).length
    ∧ t = (s.setI0 (wordOf (numArith.sync (s.buf bs) s.cfg.sequenceRoot.toNat s.cfg.sequenceLength.toNat
        s.arg.repeats.toNat).1)).setI1 (wordOf (numArith.sync (s.buf bs) s.cfg.sequenceRoot.toNat
        s.cfg.sequenceLength.toNat s.arg.repeats.toNat).2) := by
  unfold syncRule at h
  dsimp only at h
  split at h
  · cases h
  · cases h
    rename_i h1
    simp only [Bool.or_eq_true, beq_iff_eq, decide_eq_true_eq, not_or, not_lt] at h1
    exact ⟨h1.1.1.1, h1.1.1.2, h1.1.2, h1.2, rfl⟩

theorem find1Rule_ok (h : find1Rule s bs = .ok t) :
    3 ≤ (s.buf bs).length ∧ numArith.isPos s.arg.rate = true
    ∧ ∃ f, numArith.find1 (s.buf bs) s.arg.rate s.zones = .ok f ∧ t = s.setN0 f := by
  unfold find1Rule at h
  dsimp only at h
  split at h
  · cases h
  · split at h
    · cases h
    · cases h
      simp_all

theorem find2Rule_ok (h : find2Rule s bs = .ok t) :
    3 ≤ (s.buf bs).length ∧ numArith.isPos s.arg.rate = true ∧ numArith.le numArith.zero s.arg.guard = true
    ∧ ∃ f, numArith.find2 (s.buf bs) s.arg.rate s.zones s.arg.guard = .ok f ∧ t = (s.setN0 f.1).setN1 f.2 := by
  unfold find2Rule at h
  dsimp only at h
  split at h
  · cases h
  · split at h
    · cases h
    · cases h
      simp_all

theorem toneRule_ok (h : toneRule s bd bs = .ok t) :
    destinationOk bd [bs] = true ∧ s.cfg.firSize.toNat ≠ 0 ∧ s.cfg.firSize.toNat ≤ (s.buf bs).length
    ∧ numArith.isPos s.arg.rate = true ∧ numArith.cutoffOk s.cfg.toneCutoff s.arg.rate = true
    ∧ ∃ y, numArith.tone (s.buf bs) s.arg.freq s.arg.rate s.cfg.firSize.toNat s.cfg.toneCutoff = .ok y
      ∧ t = s.setBuf bd y := by
  unfold toneRule at h
  dsimp only at h
  split at h
  · cases h
  · split at h
    · cases h
    · split at h
      · cases h
      · cases h
        simp_all

theorem eqrateRule_ok (h : eqrateRule s bs = .ok t) :
    s.cfg.firSize.toNat ≠ 0 ∧ s.cfg.firSize.toNat ≤ (s.buf bs).length ∧ 2 ≤ (s.buf bs).length
    ∧ numArith.eq s.arg.freq numArith.zero = false ∧ numArith.isPos s.arg.rate = true
    ∧ numArith.cutoffOk s.cfg.toneCutoff s.arg.rate = true
    ∧ ∃ r, numArith.eqrate (s.buf bs) s.arg.freq s.arg.rate s.cfg.firSize.toNat s.cfg.toneCutoff = .ok r
      ∧ t = (s.setN0 r.1).setN1 r.2 := by
  unfold eqrateRule at h
  dsimp only at h
  split at h
  · cases h
  · split at h
    · cases h
    · cases h
      simp_all
      omega

theorem phnoiseRule_ok (h : phnoiseRule s bd bs = .ok t) :
    destinationOk bd [bs] = true ∧ s.buf bs ≠ [] ∧ numArith.isPos s.arg.rate = true
    ∧ t = s.setBuf bd (numArith.ofReals
        (numArith.phnoise (s.buf bs) s.arg.freq s.arg.rate s.cfg.phaseFilterSize.toNat)) := by
  unfold phnoiseRule at h
  dsimp only at h
  split at h
  · cases h
  · split at h
    · cases h
    · cases h
      simp_all

theorem phcorrRule_ok (h : phcorrRule s bd bs bt = .ok t) :
    destinationOk bd [bs, bt] = true ∧ s.buf bs ≠ [] ∧ s.buf bt ≠ [] ∧ numArith.isPos s.arg.factor = true
    ∧ ∃ z, numArith.phcorr (s.buf bs) (reals (s.buf bt)) s.arg.start.toNat s.arg.factor = .ok z
      ∧ t = s.setBuf bd z := by
  unfold phcorrRule at h
  dsimp only at h
  split at h
  · cases h
  · split at h
    · cases h
    · split at h
      · cases h
      · cases h
        simp_all [reals]

theorem fshiftRule_ok (h : fshiftRule s bd bs = .ok t) :
    destinationOk bd [bs] = true ∧ s.buf bs ≠ [] ∧ numArith.isPos s.arg.rate = true
    ∧ t = s.setBuf bd (numArith.fshift (s.buf bs) s.arg.freq s.arg.rate) := by
  unfold fshiftRule at h
  dsimp only at h
  split at h
  · cases h
  · split at h
    · cases h
    · cases h
      simp_all

theorem mfiltRule_ok (h : mfiltRule s bd bs = .ok t) :
    destinationOk bd [bs] = true ∧ numArith.isPos s.arg.factor = true ∧ numArith.isPos s.arg.rate = true
    ∧ numArith.isPos s.cfg.symbolRate = true ∧ numArith.rollOffOk s.cfg.rollOff = true
    ∧ numArith.filterTaps s.arg.factor ≤ (s.buf bs).length
    ∧ t = s.setBuf bd
        (numArith.mfilt (s.buf bs) s.arg.factor s.cfg.rollOff s.cfg.symbolRate s.arg.rate) := by
  unfold mfiltRule at h
  dsimp only at h
  split at h
  · cases h
  · split at h
    · cases h
    · split at h
      · cases h
      · cases h
        simp_all

theorem runRule_ok (h : runRule s = .ok t) :
    ∃ o, numArith.run s.cfg s.zones (s.buf BufId.cap) = .ok o ∧ t = s.writeRun o := by
  unfold runRule at h
  split at h
  · cases h
  · cases h
    exact ⟨_, ‹_›, rfl⟩

theorem specialRule_ok (h : specialRule s = .ok t) :
    s.snap.schema = 0#32 ∧ numArith.isPos s.snap.symbolRate = true ∧ numArith.isPos s.snap.equiRate = true
    ∧ numArith.rollOffOk s.snap.rollOff = true ∧ s.buf BufId.calE ≠ [] ∧ s.buf BufId.calES ≠ []
    ∧ numArith.calibrateLen s.snap (s.buf BufId.calE).length ≤ Config.bufMax
    ∧ numArith.calibrateLen s.snap (s.buf BufId.calES).length ≤ Config.bufMax
    ∧ t = ({ s with status := s.status.specialDone }.setBuf BufId.spoE
        (numArith.calibrate s.snap (s.buf BufId.calE))).setBuf BufId.spoES
        (numArith.calibrate s.snap (s.buf BufId.calES)) := by
  unfold specialRule at h
  split at h
  · cases h
  · rename_i y hy
    cases h
    unfold Arith.special at hy
    split at hy
    · cases hy
    · split at hy
      · cases hy
      · split at hy
        · cases hy
        · split at hy
          · cases hy
          · cases hy
            simp_all

/-! The fields that a successful RUN writes (R219, R222, R224, R226). -/

theorem State.writeRun_fields (s : State) (o : RunOut NUM) :
    (s.writeRun o).status
        = s.status.runDone s.cfg.debug o.aborted (decide (o.symbols.length < s.cfg.numSymbols.toNat))
    ∧ (s.writeRun o).sfCount = wordOf o.frames.length
    ∧ (s.writeRun o).sfLen = o.frames.map (fun f => wordOf f.z.length)
    ∧ (s.writeRun o).snap = snapshotOf s.cfg o
    ∧ (s.writeRun o).dbg = (if s.cfg.debug then numArith.debugRecord o else s.dbg)
    ∧ (s.writeRun o).dbgTlen = (if s.cfg.debug then o.frames.map (fun f => wordOf f.t.length) else s.dbgTlen) := by
  unfold State.writeRun State.writeDebug
  dsimp only
  by_cases h : s.cfg.debug = true <;> simp [h]

theorem State.writeRun_frame (s : State) (o : RunOut NUM) :
    (s.writeRun o).errCode = s.errCode ∧ (s.writeRun o).errInfo = s.errInfo ∧ (s.writeRun o).latch = s.latch
    ∧ (s.writeRun o).arg = s.arg ∧ (s.writeRun o).res = s.res ∧ (s.writeRun o).cfg = s.cfg
    ∧ (s.writeRun o).exclLo = s.exclLo ∧ (s.writeRun o).exclHi = s.exclHi
    ∧ (s.writeRun o).agenda = s.agenda ∧ (s.writeRun o).answer = s.answer := by
  unfold State.writeRun State.writeDebug
  dsimp only
  by_cases h : s.cfg.debug = true <;> simp [h]

theorem State.writeDebug_buf (s : State) (o : RunOut NUM) (b : BufId) :
    (s.writeDebug o).buf b =
      if s.cfg.debug = true then
        if b = BufId.dbgPre then o.preSymbols else if b = BufId.dbgTone then o.tones else s.buf b
      else s.buf b := by
  unfold State.writeDebug
  split
  · rw [State.setBuf_buf, State.setBuf_buf]
    simp only [eq_comm (a := b)]
    rfl
  · rfl

theorem State.writeRun_buf (s : State) (o : RunOut NUM) (b : BufId) :
    (s.writeRun o).buf b =
      if s.cfg.debug = true ∧ b = BufId.dbgPre then o.preSymbols
      else if s.cfg.debug = true ∧ b = BufId.dbgTone then o.tones
      else if b = BufId.out then o.symbols
      else s.buf b := by
  unfold State.writeRun
  dsimp only
  rw [State.writeDebug_buf, State.setBuf_buf, State.setBuf_cfg]
  simp only [eq_comm (a := BufId.out)]
  cases s.cfg.debug <;> simp [State.buf]

/-! The launch (20_memory.md R66). -/

/-- What a launch does, by the command that the word encodes. -/
theorem State.launch_cases (s : State) (w : Word) :
    (decode w = .ok .run ∧ s.launch w = { s.clearForRun with
        latch := w, status := s.status.runCleared.launched })
    ∨ (decode w = .ok .special ∧ s.launch w = { s.clearForSpecial with
        latch := w, status := s.status.specialCleared.launched })
    ∨ (decode w ≠ .ok .run ∧ decode w ≠ .ok .special
        ∧ s.launch w = { s with latch := w, status := s.status.launched }) := by
  unfold State.launch State.launchClears
  split
  · exact .inl ⟨‹_›, rfl⟩
  · exact .inr (.inl ⟨‹_›, rfl⟩)
  · exact .inr (.inr ⟨by assumption, by assumption, rfl⟩)

end Sys2Proof.Machine
end

