-- ==== Sys2Proof/Laws/Status.lean ====
section
/-! SUPPORT. The STATUS word bit by bit (10_state.md R23). -/

namespace Sys2Proof.Machine

theorem flagBit_eq (b : Bool) (n : ℕ) : flagBit b n = b.toNat * 2 ^ n := by cases b <;> simp [flagBit]

/-- The number whose bits are those of a list, the first at bit 0. -/
def bitSum : List Bool → ℕ
  | [] => 0
  | b :: l => b.toNat + 2 * bitSum l

theorem bitSum_testBit : ∀ (l : List Bool) (k : ℕ), (bitSum l).testBit k = l.getD k false
  | [], k => by simp [bitSum]
  | b :: l, 0 => by cases b <;> simp [bitSum, Nat.testBit_zero]
  | b :: l, k + 1 => by
    have : (b.toNat + 2 * bitSum l) / 2 = bitSum l := by have := Bool.toNat_le b; omega
    rw [bitSum, Nat.testBit_succ, this, bitSum_testBit l k]
    rfl

/-- The STATUS word has its flags at bits 0 to 10, and 0 above (10_state.md R23). -/
theorem Status.word_getLsbD (f : Status) (k : ℕ) : f.word.getLsbD k = f.bits.getD k false := by
  have e : f.word = BitVec.ofNat 32 (bitSum f.bits) := by
    unfold Status.word
    refine congrArg (BitVec.ofNat 32) ?_
    simp only [flagBit_eq, bitSum, Status.bits]
    ring
  rw [e, BitVec.getLsbD_ofNat, bitSum_testBit]
  by_cases hk : k < 32
  · rw [decide_eq_true hk, Bool.true_and]
  · have hl : f.bits.length ≤ k := le_trans (show 11 ≤ 32 by norm_num) (not_lt.mp hk)
    rw [decide_eq_false hk, Bool.false_and, List.getD_eq_default _ _ hl]

end Sys2Proof.Machine
end

