-- ==== Sys2Proof/Laws/Tables.lean ====
section
/-! SUPPORT. The exclusion-zone table as a list without zeros at its end (log 11): reading after writing, and
the form that every write keeps. -/

namespace Sys2Proof.Machine

theorem trimTable_cons (x : NUM) (t : List NUM) :
    (trimTable t = [] ∧ x = .rat 0 ∧ trimTable (x :: t) = [])
    ∨ (¬ (trimTable t = [] ∧ x = .rat 0) ∧ trimTable (x :: t) = x :: trimTable t) := by
  cases h : trimTable t with
  | nil =>
    by_cases hx : x = .rat 0
    · exact .inl ⟨rfl, hx, by simp [trimTable, h, hx]⟩
    · exact .inr ⟨fun h' => hx h'.2, by simp [trimTable, h, hx]⟩
  | cons y u => exact .inr ⟨fun h' => (List.cons_ne_nil _ _ h'.1).elim, by simp [trimTable, h]⟩

/-- Dropping the zeros at the end changes no entry. -/
@[simp] theorem tableEntry_trim (t : List NUM) (i : ℕ) : tableEntry (trimTable t) i = tableEntry t i := by
  induction t generalizing i with
  | nil => rfl
  | cons x t ih =>
    obtain ⟨h, rfl, h'⟩ | ⟨-, h'⟩ := trimTable_cons x t
    · rw [h']
      cases i with
      | zero => rfl
      | succ i =>
        have := ih i
        rw [h] at this
        simpa [tableEntry] using this
    · rw [h']
      cases i with
      | zero => rfl
      | succ i => simpa [tableEntry] using ih i

/-- An entry just written reads as the value; every other entry reads as before. -/
theorem tableEntry_set (t : List NUM) (i : ℕ) (x : NUM) (j : ℕ) :
    tableEntry (tableSet t i x) j = if j = i then x else tableEntry t j := by
  unfold tableSet
  rw [tableEntry_trim]
  unfold tableEntry
  rw [List.getElem?_set]
  split
  · rename_i h
    subst h
    rw [if_pos (by simp only [List.length_append, List.length_replicate]; omega), if_pos rfl, Option.getD_some]
  · rw [if_neg (Ne.symm ‹_›), List.getElem?_append]
    split
    · rfl
    · rw [List.getElem?_replicate, List.getElem?_eq_none (not_lt.mp ‹_›)]
      split <;> rfl

theorem trimTable_length (t : List NUM) : (trimTable t).length ≤ t.length := by
  induction t with
  | nil => simp [trimTable]
  | cons x t ih =>
    obtain ⟨-, -, h⟩ | ⟨-, h⟩ := trimTable_cons x t <;> rw [h] <;> simp
    exact ih

theorem tableSet_length (t : List NUM) (i : ℕ) (x : NUM) {n : ℕ} (ht : t.length ≤ n) (hi : i < n) :
    (tableSet t i x).length ≤ n := by
  refine (trimTable_length _).trans ?_
  simp only [List.length_set, List.length_append, List.length_replicate]
  omega

/-- The form of a table: its last entry is not 0. -/
theorem trimTable_last (t : List NUM) : (trimTable t).getLast? ≠ some (.rat 0) := by
  induction t with
  | nil => simp [trimTable]
  | cons x t ih =>
    obtain ⟨-, -, h⟩ | ⟨hn, h⟩ := trimTable_cons x t
    · simp [h]
    · rw [h]
      cases hu : trimTable t with
      | nil => simpa [hu] using hn
      | cons y u => rw [hu] at ih; simpa using ih

theorem tableSet_last (t : List NUM) (i : ℕ) (x : NUM) : (tableSet t i x).getLast? ≠ some (.rat 0) :=
  trimTable_last _

end Sys2Proof.Machine
end

