-- ==== Sys2Proof/Tests/Slice0.lean ====
section
/-! SUPPORT. Tests of the model, and for every statement with hypotheses a concrete state and operands that
meet them. Expected results come from the worked examples and tables of spec/ (95_test_vectors.md, the ids
V-...; the encoding tables of 30_encoding.md), never from the model. -/

/- One after the other: side by side, the kernel evaluations below wait for one another, each in a thread of its own. -/
set_option Elab.async false

namespace Sys2Proof.Tests.Slice0

open Sys2Proof.Machine

/-! Small states. -/

/-- Rational points as the content of a buffer. -/
def pts (l : List Rat) : List (Cx NUM) := l.map fun q => ⟨.rat q, .rat 0⟩

/-- The reset state with some buffers filled. -/
def withBufs (c : List (BufId × List (Cx NUM))) : State := c.foldl (fun s p => s.setBuf p.1 p.2) State.reset

/-- A state with the arguments START, FACTOR, FREQ and RATE. -/
def withArgs (start : Nat) (factor freq rate : Rat) (s : State) : State :=
  { s with arg := { s.arg with start := wordOf start, factor := .rat factor, freq := .rat freq, rate := .rat rate } }

/-- A state with another configuration. -/
def withCfg (f : CfgBank NUM → CfgBank NUM) (s : State) : State := { s with cfg := f s.cfg }

/-- A state in which a command word was just launched. -/
def launched (w : Word) (s : State) : State := s.launch w

/-- A state with an agenda. -/
def withAgenda (a : List Event) (s : State) : State := { s with agenda := a }

/-- The state after the completion of a command launched in `s`. -/
noncomputable def after (i : Instr) (s : State) : State :=
  match exec i (s.launch (encode i)) with
  | .next t => t
  | _ => s

/-- The complex tone of `k` turns in `N` samples: `cis(2π·k·n/N)`. -/
noncomputable def unitTone (N : Nat) (k : Rat) : List (Cx NUM) :=
  (List.range N).map fun n => numArith.cis (numArith.mul .pi (.rat (2 * k * n / N)))

/-- A value agrees with a six-place decimal of the tables. -/
def near (x : NUM) (q : Rat) : Bool :=
  match enclose x with
  | some e => decide ((q - 1 / 1000000) * encScale ≤ e.lo) && decide (e.hi ≤ (q + 1 / 1000000) * encScale)
  | none => false

/-- A sequence agrees with real six-place decimals; imaginary parts are 0. -/
def nearReals (x : List (Cx NUM)) (l : List Rat) : Bool :=
  x.length == l.length && (x.zip l).all fun p => near p.1.re p.2 && near p.1.im 0

/-- The state that a step answers is one of a kind. -/
def answers (o : Host.Outcome State Fault Refusal) (p : State → Bool) : Bool :=
  match o with
  | .next t => p t
  | _ => false

/-! WellFormed: each check of R85 refuses an ill-formed term, and accepts a neighbour. -/

theorem test_destination_is_no_work_buffer : (Instr.zcgen BufId.cap).wellFormed = false := by decide
theorem test_destination_above_work_buffers : (Instr.fshift BufId.out BufId.w0).wellFormed = false := by decide
theorem test_destination_is_source : (Instr.downsample BufId.w0 BufId.w0).wellFormed = false := by decide
theorem test_destination_is_second_source :
    (Instr.phcorr BufId.w2 BufId.w0 BufId.w2).wellFormed = false := by decide
theorem test_sources_may_coincide : (Instr.phcorr BufId.w2 BufId.w0 BufId.w0).wellFormed = true := by decide
theorem test_last_work_buffer : (Instr.mfilt BufId.w3 BufId.dbgPre).wellFormed = true := by decide

/-! Decode: ZERO, BT, BS, BD, OP written out bit by bit (R80, R83, R86). -/

theorem test_decode_nop : decode 0b00000000000000000000000000000000#32 = .ok .nop := by decide
theorem test_decode_clrerr : decode 0b00000000000000000000000000000001#32 = .ok .clrerr := by decide
theorem test_decode_sreset : decode 0b00000000000000000000000000000010#32 = .ok .sreset := by decide
theorem test_decode_downsample :
    decode 0b00000000000000000011010000010000#32 = .ok (.downsample BufId.w1 BufId.w0) := by decide
theorem test_decode_bestpoint : decode 0b00000000000000000011000000010001#32 = .ok (.bestpoint BufId.w0) := by decide
theorem test_decode_zcgen : decode 0b00000000000000000000010100100000#32 = .ok (.zcgen BufId.w2) := by decide
theorem test_decode_sync : decode 0b00000000000000001011000000100001#32 = .ok (.sync BufId.dbgPre) := by decide
theorem test_decode_find1 : decode 0b00000000000000000011000000110000#32 = .ok (.find1 BufId.w0) := by decide
theorem test_decode_find2 : decode 0b00000000000000000001000000110001#32 = .ok (.find2 BufId.calE) := by decide
theorem test_decode_tone : decode 0b00000000000000000011010000110010#32 = .ok (.tone BufId.w1 BufId.w0) := by decide
theorem test_decode_eqrate : decode 0b00000000000000000011000000110011#32 = .ok (.eqrate BufId.w0) := by decide
theorem test_decode_phnoise :
    decode 0b00000000000000001010010000110100#32 = .ok (.phnoise BufId.w1 BufId.dbgTone) := by decide
theorem test_decode_phcorr :
    decode 0b00000000000001010100011000110101#32 = .ok (.phcorr BufId.w3 BufId.w1 BufId.w2) := by decide
theorem test_decode_fshift : decode 0b00000000000000000011010001000000#32 = .ok (.fshift BufId.w1 BufId.w0) := by decide
theorem test_decode_mfilt : decode 0b00000000000000000111001101000001#32 = .ok (.mfilt BufId.w0 BufId.out) := by decide
theorem test_decode_run : decode 0b00000000000000000000000001010000#32 = .ok .run := by decide
theorem test_decode_special : decode 0b00000000000000000000000001010001#32 = .ok .special := by decide

/-- V-ENC-2: unknown opcodes and bits outside the row's fields. -/
theorem test_decode_unknown :
    [0x3#32, 0x12#32, 0xFF#32, 0x100010#32, 0x80000000#32, 0x150#32, 0x10050#32, 0x111#32, 0x10010#32].all
      (fun w => decode w == .error .noCommand) = true := by decide

/-- V-ENC-3, V-ENC-4: buffer numbers 12 to 15. -/
theorem test_decode_no_buffer :
    [0xC011#32, 0xF310#32, 0xF4635#32, 0xCC10#32].all (fun w => decode w == .error .noBuffer) = true := by decide

theorem test_encode_phcorr : encode (.phcorr BufId.w3 BufId.w1 BufId.w2) = 0x00054635#32 := by decide
theorem test_table_word : decodeTableWord 32 0x00003410 = some (.downsample BufId.w1 BufId.w0) := by decide

/-- The placed word is the next one that `step` runs: DOWNSAMPLE after reset fails with ERR_ARG (R312). -/
theorem test_step_runs_placed_word :
    answers (step (State.reset.withFetchWord 32 0x3410)) (fun t => t.errCode == 5#32 && t.errInfo == 0x3410#32) = true := by
  decide +kernel

/-! One step each. -/

/-- V-SYS-1. -/
theorem test_nop : after .nop State.reset = { State.reset with status := { Status.reset with done := true } } := by
  decide +kernel

/-- V-SYS-3, from STATUS 0x40C, ERRCODE 5, ERRINFO 0x3410. -/
theorem test_clrerr :
    let s := { State.reset with
      status := { Status.reset with err := true, errSticky := true, hostViol := true }
      errCode := 5#32, errInfo := 0x3410#32 }
    s.status.word = 0x40C#32 ∧ (after .clrerr s).status.word = 2#32 ∧ (after .clrerr s).errCode = 0#32
      ∧ (after .clrerr s).errInfo = 0#32 := by decide +kernel

/-- V-SYS-4. -/
theorem test_sreset : after .sreset (withArgs 7 3 2 1 (withBufs [(BufId.w0, pts [1])])) = State.reset := by
  decide +kernel

/-- V-RS-1: ties go down. -/
theorem test_downsample : (after (.downsample BufId.w1 BufId.w0)
    (withArgs 0 (5 / 2) 0 0 (withBufs [(BufId.w0, pts [0, 1, 2, 3, 4, 5, 6, 7, 8, 9])]))).buf BufId.w1
      = pts [0, 2, 5, 7] := by decide +kernel

/-- V-RS-4: a start beyond the end is no error. -/
theorem test_downsample_beyond : (after (.downsample BufId.w1 BufId.w0)
    (withArgs 12 2 0 0 (withBufs [(BufId.w0, pts [0, 1, 2, 3])]))).status.word = 2#32 := by decide +kernel

/-- V-RS-9. -/
theorem test_bestpoint : (after (.bestpoint BufId.w0)
    (withArgs 0 (5 / 2) 0 0 (withBufs [(BufId.w0, pts [0, 1, 0, 0, 0, 0, 1, 0, 0, 0, 0, 1, 0])]))).res.i0 = 1#32 := by
  decide +kernel

/-- zc(2, 4) of V-SY-3, each element twice. -/
theorem test_zcgen : (after (.zcgen BufId.w2)
    { withCfg (fun c => { c with sequenceRoot := 2#32, sequenceLength := 4#32 }) State.reset with
      arg := { ArgBank.reset with repeats := 2#32 } }).buf BufId.w2
      = [⟨.rat 1, .rat 0⟩, ⟨.rat 1, .rat 0⟩, ⟨.rat 0, .rat (-1)⟩, ⟨.rat 0, .rat (-1)⟩,
         ⟨.rat 1, .rat 0⟩, ⟨.rat 1, .rat 0⟩, ⟨.rat 0, .rat (-1)⟩, ⟨.rat 0, .rat (-1)⟩] := by decide +kernel

/-- After V-SY-17: 2^31 · 2 elements fit in no instance. -/
theorem test_zcgen_range : (after (.zcgen BufId.w2)
    { withCfg (fun c => { c with sequenceLength := 0x80000000#32 }) State.reset with
      arg := { ArgBank.reset with repeats := 2#32 } }).errCode = 7#32 := by
  have h := Config.bufMax_lt
  have e : zcgenRule (State.launch { withCfg (fun c => { c with sequenceLength := 0x80000000#32 }) State.reset with
      arg := { ArgBank.reset with repeats := 2#32 } } (encode (.zcgen BufId.w2))) BufId.w2 = .error .errRange := by
    unfold zcgenRule
    rw [if_neg (by decide), if_neg (by decide), if_pos]
    change Config.bufMax < 0x80000000 * 2
    omega
  unfold after
  simp only [exec, execZcgen, e]
  rfl

/-- V-SY-4 with zc(2, 4) at element 20 of 50: the start is 20, the end 24 (R123, R129). -/
theorem test_sync :
    let zeros := fun n => List.replicate n (⟨.rat 0, .rat 0⟩ : Cx NUM)
    let x := zeros 20 ++ [⟨.rat 1, .rat 0⟩, ⟨.rat 0, .rat (-1)⟩, ⟨.rat 1, .rat 0⟩, ⟨.rat 0, .rat (-1)⟩] ++ zeros 26
    let t := after (.sync BufId.cap)
      (withCfg (fun c => { c with sequenceRoot := 2#32, sequenceLength := 4#32 }) (withBufs [(BufId.cap, x)]))
    t.res.i0 = 20#32 ∧ t.res.i1 = 24#32 := by decide +kernel

/-- V-SY-11: 49 elements are too few. -/
theorem test_sync_short : (after (.sync BufId.cap) (withCfg (fun c => { c with sequenceLength := 4#32 })
    (withBufs [(BufId.cap, List.replicate 49 ⟨.rat 0, .rat 0⟩)]))).errCode = 5#32 := by decide +kernel

/-- V-PT-1. -/
theorem test_find1 : (after (.find1 BufId.w0) (withArgs 0 1 0 8 (withBufs [(BufId.w0, unitTone 8 2)]))).res.n0
    = .rat 2 := by decide +kernel

/-- An impulse has |X[k]| = 1 in every bin, so the lowest admitted bin wins (R143): 1, then 3 outside [0, 2]. -/
theorem test_find2 :
    let s := withArgs 0 1 0 8 (withBufs [(BufId.w0, pts [1, 0, 0, 0, 0, 0, 0, 0])])
    let t := after (.find2 BufId.w0) { s with arg := { s.arg with guard := .rat 1 } }
    t.res.n0 = .rat 1 ∧ t.res.n1 = .rat 3 := by decide +kernel

/-- V-PT-14. -/
theorem test_tone : nearReals ((after (.tone BufId.w1 BufId.w0)
    (withCfg (fun c => { c with firSize := 3#32, toneCutoff := .rat 1 })
      (withArgs 0 1 0 8 (withBufs [(BufId.w0, pts [1, 1, 1, 1])])))).buf BufId.w1)
    [937044 / 1000000, 1, 1, 937044 / 1000000] = true := by decide +kernel

/-- V-PT-21. -/
theorem test_eqrate :
    let t := after (.eqrate BufId.w0)
      (withCfg (fun c => { c with firSize := 1#32, toneCutoff := .rat 1 })
        (withArgs 0 1 1 8 (withBufs [(BufId.w0, unitTone 8 (5 / 4))])))
    near t.res.n0 (64 / 10) = true ∧ near t.res.n1 (1 / 4) = true := by decide +kernel

/-- V-PH-2. -/
theorem test_phnoise : nearReals ((after (.phnoise BufId.w1 BufId.w0)
    (withCfg (fun c => { c with phaseFilterSize := 3#32 })
      (withArgs 0 1 1 8 (withBufs [(BufId.w0, unitTone 8 (5 / 4))])))).buf BufId.w1)
    [98175 / 1000000, 196350 / 1000000, 392699 / 1000000, 589049 / 1000000, 785398 / 1000000,
      981748 / 1000000, 1178097 / 1000000, 1276272 / 1000000] = true := by decide +kernel

/-- V-PH-9: a step of exactly π is kept. -/
theorem test_phnoise_half_turns : (after (.phnoise BufId.w1 BufId.w0)
    (withArgs 0 1 0 8 (withBufs [(BufId.w0, pts [1, -1, 1, -1])]))).buf BufId.w1
    = [⟨.rat 0, .rat 0⟩, ⟨.pi, .rat 0⟩, ⟨.rat 0, .rat 0⟩, ⟨.pi, .rat 0⟩] := by decide +kernel

/-- V-PH-12. -/
theorem test_phcorr :
    let halfPi := numArith.mul (.rat (1 / 2)) .pi
    (after (.phcorr BufId.w2 BufId.w0 BufId.w1)
      (withArgs 0 2 0 0 (withBufs
        [(BufId.w0, [⟨.rat 1, .rat 0⟩, ⟨.rat 0, .rat 1⟩, ⟨.rat (-1), .rat 0⟩]),
         (BufId.w1, [⟨.rat 0, .rat 0⟩, ⟨.rat 9, .rat 0⟩, ⟨halfPi, .rat 0⟩, ⟨.rat 9, .rat 0⟩, ⟨.pi, .rat 0⟩])]))).buf BufId.w2
      = pts [1, 1, 1] := by decide +kernel

/-- V-PH-15: the trajectory is too short; the destination keeps its content. -/
theorem test_phcorr_short :
    let t := after (.phcorr BufId.w2 BufId.w0 BufId.w1)
      (withArgs 0 2 0 0 (withBufs [(BufId.w0, pts [1, 1, 1]), (BufId.w1, pts [0, 0, 0, 0]), (BufId.w2, pts [8])]))
    t.errCode = 5#32 ∧ t.errInfo = 0x00043535#32 ∧ t.buf BufId.w2 = pts [8] := by decide +kernel

/-- V-FI-2. -/
theorem test_fshift : (after (.fshift BufId.w1 BufId.w0)
    (withArgs 0 1 2 8 (withBufs [(BufId.w0, pts [1, 1, 1, 1, 1])]))).buf BufId.w1
    = [⟨.rat 1, .rat 0⟩, ⟨.rat 0, .rat (-1)⟩, ⟨.rat (-1), .rat 0⟩, ⟨.rat 0, .rat 1⟩, ⟨.rat 1, .rat 0⟩] := by
  decide +kernel

/-- V-FI-13. -/
theorem test_mfilt : nearReals ((after (.mfilt BufId.w1 BufId.w0)
    (withCfg (fun c => { c with symbolRate := .rat 1, rollOff := .rat (1 / 2) })
      (withArgs 0 1 0 1 (withBufs [(BufId.w0, pts [1, 0, 0, 0, 0, 0, 0, 0, 0, 0, 0, 0])])))).buf BufId.w1)
    [1136620 / 1000000, -106103 / 1000000, 42441 / 1000000, 3032 / 1000000, -10105 / 1000000,
      -643 / 1000000, 4452 / 1000000, 0, 0, 0, 0, 0] = true := by decide +kernel

/-- V-FI-16: eleven elements for twelve taps. -/
theorem test_mfilt_short : (after (.mfilt BufId.w1 BufId.w0)
    (withCfg (fun c => { c with symbolRate := .rat 1 })
      (withArgs 0 1 0 1 (withBufs [(BufId.w0, pts [0, 0, 0, 0, 0, 0, 0, 0, 0, 0, 0])])))).errCode = 5#32 := by
  decide +kernel

/-- V-RUN-10: the reset state selects the general variant, which needs two pilots. -/
theorem test_run_reset :
    let t := after .run State.reset
    t.status.word = 0x00C#32 ∧ t.errCode = 2#32 ∧ t.errInfo = 0x50#32 := by decide +kernel

/-- The impulse pair of V-SP-1: SPO_E is the filter itself, SPO_ES its second half. -/
theorem test_special :
    let s := withBufs [(BufId.calE, pts [0, 0, 0, 0, 0, 1, 0, 0, 0, 0, 0, 0]),
      (BufId.calES, pts [1, 0, 0, 0, 0, 0, 0, 0, 0, 0, 0, 0])]
    let t := after .special { s with snap := ⟨.rat 1, .rat 1, .rat (1 / 2), .rat 0, 0#32⟩ }
    t.status.word = 0x082#32
    ∧ nearReals (t.buf BufId.spoE) [-643 / 1000000, -10105 / 1000000, 3032 / 1000000, 42441 / 1000000,
      -106103 / 1000000, 1136620 / 1000000, -106103 / 1000000, 42441 / 1000000, 3032 / 1000000,
      -10105 / 1000000, -643 / 1000000, 4452 / 1000000] = true
    ∧ (t.buf BufId.spoES).length = 12 := by decide +kernel

/-! The host's pseudo-instructions, one step each (30_encoding.md R91). -/

/-- `MOV ARG_START, RES_I0` of program P1: the write half, after a read that returned 1. -/
theorem test_mov :
    answers (step { withAgenda [.host (.regCopy Reg.argStart.number)] State.reset with answer := .word 1#32 })
      (fun t => t.arg.start == 1#32 && t.agenda.isEmpty) = true := by decide +kernel

/-- `WAIT` goes on while BUSY is 1, and ends when it is 0. -/
theorem test_wait :
    answers (step (withAgenda [.wait] (State.reset.launch 0x3011#32)))
      (fun t => t.answer == .word 1#32 && t.agenda == [.blockTurn, .wait]) = true
    ∧ answers (step (withAgenda [.wait] State.reset)) (fun t => t.answer == .word 0#32 && t.agenda.isEmpty) = true := by
  decide +kernel

/-! The host's side: a frame of two subframes, and the aligner on the second. -/

/-- OUT holds subframes of 1 and 3 symbols. -/
def twoSubframes : State :=
  { withBufs [(BufId.out, pts [9] ++ [⟨.rat 2, .rat (-6)⟩, ⟨.rat 7, .rat 0⟩, ⟨.rat (-2), .rat 6⟩])] with
    sfCount := 2#32, sfLen := [1#32, 3#32] }

/-- The count that R262 gives for the default precision of R261. -/
theorem test_default_precision : numArith.angleCount (numArith.rat Config.anglePrecision) = 6284 := by decide +kernel

/-- The cut by SF_LEN (10_state.md R32). -/
theorem test_second_subframe : twoSubframes.subframe 1 = (twoSubframes.buf BufId.out).drop 1
    ∧ twoSubframes.subframe 0 = pts [9] ∧ twoSubframes.subframe 2 = [] := by decide +kernel

/-- By hand from R262: precision 1.6 gives the angles −π, −π/2, 0, π/2; for the revealed symbols 2 and −2 and the
recovered ones 2·(1 − 3i) and −2·(1 − 3i) the covariances are −4, −12, 4 and 12. The symbol at index 1 is not revealed,
and index 3 has no symbol. -/
theorem test_align_subframe :
    let r := twoSubframes.alignSubframe [(0, ⟨.rat 2, .rat 0⟩), (2, ⟨.rat (-2), .rat 0⟩), (3, ⟨.rat 5, .rat 0⟩)] 1 (.rat (8 / 5))
    (near r.1 (1570796 / 1000000) && near r.2 12) = true := by decide +kernel

/-! Witnesses: for each statement of Certificates/Slice0/Obligations.lean with hypotheses, a concrete state and
operands that meet all of them; where a statement has several clauses, one for each, at the boundary of its range. -/

/-- An idle state in which one command has completed. -/
def doneState : State := { State.reset with status := { Status.reset with done := true } }

/-- A busy state: NOP was just launched. -/
def busyState : State := State.reset.launch 0#32

/-! A buffer of zeros, in the formulas. -/

theorem sampleAt_zeros (N : ℕ) : sampleAt (List.replicate N ⟨.rat 0, .rat 0⟩) = fun _ => 0 := by
  funext i
  unfold sampleAt
  split
  · rw [List.getElem?_replicate]
    split <;> simp [elemValue, NUM.toReal, Complex.ext_iff]
  · rfl

theorem shiftedBy_zero (f fs : ℝ) : shiftedBy (fun _ => 0) f fs = fun _ => 0 := by
  funext n
  simp [shiftedBy]

/-- Among equal magnitudes the least admitted bin wins (00_scope.md R6). -/
theorem isPilot_zero {N : ℕ} {rate : ℝ} {zones : List (ℝ × ℝ)} (k : ℕ) (h : AdmittedBin N rate zones k)
    (hk : ∀ k' < k, ¬ AdmittedBin N rate zones k') : IsPilot N (fun _ => 0) rate zones (k * rate / N) :=
  ⟨k, h, fun k' h' => ⟨by simp [binMagnitude], fun hlt => absurd h' (hk k' hlt)⟩, rfl⟩

/-- A silent capture of 50 samples "synchronises" at 0 (41_sequence_sync.md R128). -/
theorem isSync_zero (u L q : ℕ) (h : L * q ≤ 50) : IsSync 50 (fun _ => 0) u L q 0 := by
  refine ⟨0, 0, 0, min 50 (2 * (L * q)), 0, ⟨by norm_num, by norm_num, ?_⟩, by norm_num, ?_, by simp, ?_, rfl, by omega⟩
  · intro j _ _
    simp
  · generalize L * q = r
    omega
  · refine ⟨by omega, ?_⟩
    intro l _
    simp

/-- 50 elements of 0 in CAP, the least capture that RUN and SYNC take. -/
def zeros50 : State := withBufs [(BufId.cap, List.replicate 50 ⟨.rat 0, .rat 0⟩)]

theorem witness_EncodeDecode : decode 0x000BB635#32 = .ok (.phcorr BufId.w3 BufId.dbgPre BufId.dbgPre) := by decide

theorem witness_StepRunsCommand :
    (busyState.agenda = [] ∧ busyState.status.busy = true ∧ decode busyState.latch = .ok .nop)
    ∧ ((withAgenda [.blockTurn] busyState).agenda = .blockTurn :: [] ∧ busyState.status.busy = true
      ∧ decode busyState.latch = .ok .nop)
    ∧ (State.reset.agenda = [] ∧ State.reset.status.busy = false)
    ∧ ((withAgenda [.blockTurn] State.reset).agenda = .blockTurn :: [] ∧ State.reset.status.busy = false) := by decide

/-- The words next to the legal ones: opcode 3, BD beside format Z, buffer 12, bit 20. -/
theorem witness_IllegalWordFails : ∀ w ∈ [0x3#32, 0x150#32, 0xC011#32, 0x100010#32],
    (launched w State.reset).agenda = [] ∧ (withAgenda [.blockTurn] (launched w State.reset)).agenda = .blockTurn :: []
    ∧ (launched w State.reset).status.busy = true ∧ ¬ legalWord (launched w State.reset).latch := by
  intro w hw
  simp only [List.mem_cons, List.not_mem_nil, or_false] at hw
  refine ⟨?_, rfl, rfl, ?_⟩
  · rcases hw with rfl | rfl | rfl | rfl <;> rfl
  · have hl : (launched w State.reset).latch = w := rfl
    rw [hl]
    rintro (⟨op, hop, h⟩ | ⟨op, hop, bs, hbs, h⟩ | ⟨bd, hbd, h⟩ | ⟨op, hop, bd, hbd, bs, hbs, h⟩
      | ⟨bd, hbd, bs, hbs, bt, hbt, h⟩) <;>
      rcases hw with rfl | rfl | rfl | rfl <;>
      simp only [List.mem_cons, List.not_mem_nil, or_false, BitVec.toNat_ofNat] at * <;> omega

theorem witness_CommandWriteRuns : ∀ e ∈ [Event.blockTurn, Event.wait],
    let s := withAgenda [.host (.regWrite 0x01 (encode .run) (.rat 0)), e] State.reset
    s.status.busy = false ∧ s.agenda = .host (.regWrite 0x01 (encode .run) (.rat 0)) :: e :: []
    ∧ (withAgenda [.wait] State.reset).agenda = .wait :: [] := by
  intro e he
  exact ⟨rfl, rfl, rfl⟩

/-- Another state than the one after reset: an idle block that has completed a command. -/
theorem witness_ConsistentStep : doneState.Consistent ∧ step doneState = .next doneState := by
  refine ⟨?_, rfl⟩
  constructor <;> decide +kernel

/-- A state with one element in a buffer. -/
theorem witness_BuffersStayInCapacity :
    (State.reset.setBuf BufId.w0 [⟨.rat 0, .rat 0⟩]).mem.wf = true
    ∧ step (State.reset.setBuf BufId.w0 [⟨.rat 0, .rat 0⟩]) = .next (State.reset.setBuf BufId.w0 [⟨.rat 0, .rat 0⟩]) :=
  ⟨by decide +kernel, rfl⟩

/-- For ResetValues: the reset input comes while a command runs. -/
theorem witness_ResetValues :
    (withAgenda [.reset, .blockTurn] busyState).agenda = .reset :: [.blockTurn] := rfl

theorem witness_CommandsAfterReset : (Instr.phcorr BufId.w3 BufId.cap BufId.cap).wellFormed = true := by decide

theorem witness_LaunchEffect :
    State.reset.status.busy = false ∧ (decode 0x3#32 ≠ .ok .run ∧ decode 0x3#32 ≠ .ok .special)
    ∧ decode 0x50#32 = .ok .run ∧ decode 0x51#32 = .ok .special := by decide

theorem witness_FailureUpdate :
    let s := State.reset.launch 0x50#32
    s.status.busy = true ∧ s.status.err = false ∧ s.status.done = false
    ∧ exec .run s = .next (s.failedWith .errPilots) ∧ (s.failedWith .errPilots).status.err = true :=
  ⟨rfl, rfl, rfl, rfl, rfl⟩

theorem witness_SuccessUpdate :
    Instr.nop ≠ .sreset ∧ busyState.status.busy = true ∧ busyState.status.err = false
    ∧ exec .nop busyState = .next busyState.finished ∧ busyState.finished.status.err = false :=
  ⟨by decide, rfl, rfl, rfl, rfl⟩

theorem witness_AliasFails :
    (Instr.zcgen BufId.calES).wellFormed = false ∧ (Instr.zcgen BufId.out).wellFormed = false
    ∧ (Instr.tone BufId.w0 BufId.w0).wellFormed = false := by decide

/-- One state for each kind of condition, next to the values that pass: empty sources and factor 0 (as after reset
for the rates), 49 and 2 samples, no taps, a negative guard band, a roll-off above 1, results that are too long. -/
theorem witness_OperandErrors :
    let s := withArgs 0 0 0 0 zeros50
    let t := withArgs 0 (1 / (4 * Config.bufMax)) 0 0 (withBufs [(BufId.w0, pts [1, 2])])
    let u := { withCfg (fun c => { c with sequenceLength := 0x80000000#32, firSize := 0#32, rollOff := .rat (11 / 10) })
      t with arg := { t.arg with guard := .rat (-1), factor := .rat (2 ^ 32) } }
    (destinationOk BufId.w1 [BufId.w0] = true ∧ destinationOk BufId.w2 [BufId.w0, BufId.w1] = true
      ∧ destinationOk BufId.w3 [] = true)
    ∧ ((s.buf BufId.w0).length = 0 ∧ s.buf BufId.w1 = [] ∧ s.arg.factor.toReal ≤ 0 ∧ s.arg.rate.toReal ≤ 0
      ∧ s.cfg.sequenceLength.toNat = 0 ∧ s.arg.freq.toReal = 0 ∧ s.cfg.symbolRate.toReal ≤ 0
      ∧ s.arg.rate.toReal / 2 ≤ s.cfg.toneCutoff.toReal)
    ∧ ((t.buf BufId.w0).length ≠ 0 ∧ 0 < t.arg.factor.toReal
      ∧ posOf t.arg.start.toNat t.arg.factor.toReal Config.bufMax < (t.buf BufId.w0).length
      ∧ (t.buf BufId.w0).length < 3)
    ∧ (u.cfg.sequenceLength.toNat ≠ 0 ∧ u.arg.repeats.toNat ≠ 0
      ∧ Config.bufMax < u.cfg.sequenceLength.toNat * u.arg.repeats.toNat ∧ u.cfg.firSize.toNat = 0
      ∧ u.arg.guard.toReal < 0 ∧ 1 < u.cfg.rollOff.toReal ∧ 2 ^ 32 - 1 < ⌈u.arg.factor.toReal⌉) := by
  have hb : (50 : ℝ) ≤ Config.bufMax := by exact_mod_cast Config.bufMax_ge
  have hl := Config.bufMax_lt
  have hf : (NUM.rat (1 / (4 * (Config.bufMax : ℚ)))).toReal = 1 / (4 * (Config.bufMax : ℝ)) := by
    simp [NUM.toReal]
  refine ⟨by decide, ⟨rfl, rfl, ?_, ?_, rfl, ?_, ?_, ?_⟩, ⟨by decide, ?_, ?_, by decide⟩,
    ⟨by decide, by decide, ?_, rfl, ?_, ?_, ?_⟩⟩
  · simp [withArgs, NUM.toReal]
  · simp [withArgs, NUM.toReal]
  · simp [withArgs, NUM.toReal]
  · simp [withArgs, zeros50, withBufs, State.reset, CfgBank.reset, State.setBuf, NUM.toReal]
  · simp [withArgs, zeros50, withBufs, State.reset, CfgBank.reset, State.setBuf, NUM.toReal]
  · change 0 < (NUM.rat _).toReal
    rw [hf]
    positivity
  · change ⌈((0 : ℕ) : ℝ) + Config.bufMax * (NUM.rat _).toReal - 1 / 2⌉ < ((2 : ℕ) : ℤ)
    rw [hf, Int.ceil_lt_iff]
    have : (Config.bufMax : ℝ) * (1 / (4 * Config.bufMax)) = 1 / 4 := by field_simp
    rw [this]
    norm_num
  · change Config.bufMax < 0x80000000 * 1
    omega
  · change (NUM.rat (-1)).toReal < 0
    norm_num [NUM.toReal]
  · change 1 < (NUM.rat (11 / 10)).toReal
    norm_num [NUM.toReal]
  · change 2 ^ 32 - 1 < ⌈(NUM.rat (2 ^ 32)).toReal⌉
    rw [show (NUM.rat (2 ^ 32)).toReal = ((2 ^ 32 : ℤ) : ℝ) by norm_num [NUM.toReal], Int.ceil_intCast]
    norm_num

/-- For BufferFrame, RegisterFrame, ResultRegisterFrame and FlagFrame: commands that answer a next state, and a
buffer that the command may not write. -/
theorem witness_frames :
    (exec .nop busyState = .next busyState.finished ∧ ¬ mayWrite .nop BufId.cap
      ∧ Instr.nop ≠ .sreset ∧ Instr.nop ≠ .run ∧ Instr.nop ≠ .special ∧ Instr.nop ≠ .clrerr
      ∧ busyState.cfg.debug = false)
    ∧ (exec .sreset busyState = .next State.reset)
    ∧ ¬ mayWrite .run BufId.w0 ∧ ¬ mayWrite .special BufId.out
    ∧ ¬ mayWrite (.zcgen BufId.w0) BufId.w1 ∧ ¬ mayWrite (.zcgen BufId.cap) BufId.cap :=
  ⟨⟨rfl, id, by decide, by decide, by decide, by decide, rfl⟩, rfl, by simp [mayWrite, BufId.w0, BufId.out, BufId.dbgTone, BufId.dbgPre],
    by simp [mayWrite, BufId.out, BufId.spoE, BufId.spoES], by simp [mayWrite, BufId.w0, BufId.w1], by simp [mayWrite]⟩

/-- The sticky record is lost by the reset input, and by CLRERR. -/
theorem witness_StickyKept :
    let s := { State.reset with status := { Status.reset with errSticky := true } }
    (step (withAgenda [.reset] s) = .next State.reset ∧ s.status.errSticky = true
      ∧ State.reset.status.errSticky = false)
    ∧ answers (step (s.launch 1#32)) (fun t => !t.status.errSticky) = true := ⟨⟨rfl, rfl, rfl⟩, rfl⟩

/-- A start past the end, a factor that is integral and one that is not, and the longest source of all instances. -/
theorem witness_DownsampleResult : ∀ f ∈ [(1 : ℚ), 5 / 2],
    let s := withArgs 9 f 0 0 (withBufs [(BufId.w0, List.replicate 50 ⟨.rat 0, .rat 0⟩)])
    destinationOk BufId.w1 [BufId.w0] = true ∧ s.buf BufId.w0 ≠ [] ∧ 0 < s.arg.factor.toReal
    ∧ ((s.buf BufId.w0).length : ℤ) ≤ posOf s.arg.start.toNat s.arg.factor.toReal Config.bufMax
    ∧ (f = 1 → s.arg.factor.toReal = (1 : ℕ)) := by
  intro f hf s
  have hb : (50 : ℝ) ≤ Config.bufMax := by exact_mod_cast Config.bufMax_ge
  have h1 : (1 : ℝ) ≤ (f : ℝ) := by
    simp only [List.mem_cons, List.not_mem_nil, or_false] at hf
    rcases hf with rfl | rfl <;> norm_num
  refine ⟨by decide, by simp [s, withArgs, withBufs, State.buf, State.setBuf], lt_of_lt_of_le one_pos h1, ?_, ?_⟩
  · change ((50 : ℕ) : ℤ) ≤ ⌈((9 : ℕ) : ℝ) + Config.bufMax * (f : ℝ) - 1 / 2⌉
    refine Int.le_ceil_iff.mpr ?_
    push_cast
    nlinarith
  · rintro rfl
    change ((1 : ℚ) : ℝ) = (1 : ℕ)
    norm_num

/-- The greatest factor that BESTPOINT takes. -/
theorem witness_BestpointResult :
    let s := withArgs 0 (2 ^ 32 - 1) 0 0 (withBufs [(BufId.w0, pts [1])])
    s.buf BufId.w0 ≠ [] ∧ 0 < s.arg.factor.toReal ∧ ⌈s.arg.factor.toReal⌉ ≤ 2 ^ 32 - 1 := by
  have h : (NUM.rat (2 ^ 32 - 1)).toReal = ((2 ^ 32 - 1 : ℤ) : ℝ) := by norm_num [NUM.toReal]
  refine ⟨by decide, ?_, ?_⟩
  · change 0 < (NUM.rat (2 ^ 32 - 1)).toReal
    rw [h]
    norm_num
  · change ⌈(NUM.rat (2 ^ 32 - 1)).toReal⌉ ≤ _
    rw [h, Int.ceil_intCast]

/-- The longest reference that fits in every instance. -/
theorem witness_ZcgenResult :
    let s := { withCfg (fun c => { c with sequenceLength := 25#32 }) State.reset with
      arg := { ArgBank.reset with repeats := 2#32 } }
    destinationOk BufId.w0 [] = true ∧ s.cfg.sequenceLength ≠ 0#32 ∧ s.arg.repeats ≠ 0#32
    ∧ s.cfg.sequenceLength.toNat * s.arg.repeats.toNat ≤ Config.bufMax :=
  ⟨by decide, by decide, by decide, Config.bufMax_ge⟩

/-- The shortest source, as long as the reference, as a command and as a sequence of reals. -/
theorem witness_SyncResult :
    let s := withCfg (fun c => { c with sequenceLength := 50#32 }) zeros50
    (s.cfg.sequenceLength ≠ 0#32 ∧ s.arg.repeats ≠ 0#32 ∧ 50 ≤ (s.buf BufId.cap).length
      ∧ s.cfg.sequenceLength.toNat * s.arg.repeats.toNat ≤ (s.buf BufId.cap).length)
    ∧ 50 ≤ (List.replicate 50 (⟨0, 0⟩ : Cx ℝ)).length ∧ 1 ≤ 25 ∧ 1 ≤ 2
    ∧ 25 * 2 ≤ (List.replicate 50 (⟨0, 0⟩ : Cx ℝ)).length := by
  refine ⟨by decide +kernel, by simp⟩

/-- Three samples at rate 3, the shortest source: the one bin is 1 Hz, admitted without zones and excluded by the
zone [1, 1]. In the instances that have a zone register, its pair is the first zone when one zone is enabled. -/
theorem witness_Find1Result :
    let s := withArgs 0 1 0 3 (withBufs [(BufId.w0, pts [1, 2, 3])])
    (3 ≤ (s.buf BufId.w0).length ∧ 0 < s.arg.rate.toReal
      ∧ AdmittedBin (s.buf BufId.w0).length s.arg.rate.toReal (zoneValues s.zones) 1)
    ∧ 3 ≤ [(⟨1, 0⟩ : Cx ℝ), ⟨2, 0⟩, ⟨3, 0⟩].length ∧ AdmittedBin 3 3 [] 1 ∧ (¬ ∃ k, AdmittedBin 3 3 [(1, 1)] k)
    ∧ (∀ i : Fin Config.maxExcl, i.val = 0 → i.val < (withCfg (fun c => { c with numExcl := 1#32 }) s).cfg.numExcl.toNat) := by
  refine ⟨⟨by decide, ?_, ?_⟩, by simp, ⟨by norm_num, by norm_num, by simp⟩, ?_, fun i hi => hi ▸ Nat.one_pos⟩
  · change 0 < (NUM.rat 3).toReal
    norm_num [NUM.toReal]
  · exact ⟨by norm_num, by decide, by intro z hz; exact absurd hz (by simp [zoneValues, State.zones, withArgs, withBufs, State.setBuf, State.reset, CfgBank.reset])⟩
  · rintro ⟨k, h1, h2, h3⟩
    have hk : k = 1 := by omega
    subst hk
    simp at h3

/-- Silence at rate N, so that bin k is k Hz: five samples leave bin 2 beside bin 1, three leave none. -/
theorem witness_Find2Result : ∀ N : ℕ, N ∈ [3, 5] →
    let s := withArgs 0 1 0 N (withBufs [(BufId.w0, List.replicate N ⟨.rat 0, .rat 0⟩)])
    let t := { s with arg := { s.arg with guard := .rat 0 } }
    let guarded := fun f : ℝ => AdmittedBin N N ((f - 0, f + 0) :: zoneValues t.zones)
    3 ≤ (t.buf BufId.w0).length ∧ (t.buf BufId.w0).length = N ∧ t.arg.rate.toReal = (N : ℝ) ∧ 0 < t.arg.rate.toReal
    ∧ t.arg.guard.toReal = 0 ∧ AdmittedBin N N (zoneValues t.zones) 1
    ∧ IsPilot N (sampleAt (t.buf BufId.w0)) N (zoneValues t.zones) ((1 : ℕ) * N / N)
    ∧ (N = 5 → ∀ ka, AdmittedBin N N (zoneValues t.zones) ka → ∃ kb, guarded (ka * N / N) kb)
    ∧ (N = 3 → ¬ ∃ kb, guarded ((1 : ℕ) * N / N) kb) := by
  intro N hN s t guarded
  have hz : zoneValues t.zones = [] := by
    simp [zoneValues, State.zones, t, s, withArgs, withBufs, State.setBuf, State.reset, CfgBank.reset]
  have hb : t.buf BufId.w0 = List.replicate N ⟨.rat 0, .rat 0⟩ := by
    simp [t, s, withArgs, withBufs, State.buf, State.setBuf]
  have hr : t.arg.rate.toReal = N := by simp [t, s, withArgs, NUM.toReal]
  have h3 : 3 ≤ N ∧ N ≤ 5 := by
    simp only [List.mem_cons, List.not_mem_nil, or_false] at hN
    rcases hN with rfl | rfl <;> omega
  have hp : (0 : ℝ) < N := by exact_mod_cast (by omega : 0 < N)
  have h1 : AdmittedBin N N [] 1 := ⟨le_refl _, by omega, by simp⟩
  have hd : ∀ k : ℕ, (k : ℝ) * N / N = k := fun k => by field_simp
  rw [hz, hb, hr]
  refine ⟨by simpa using h3.1, by simp, rfl, hp, by simp [t, NUM.toReal], h1, ?_, ?_, ?_⟩
  · rw [sampleAt_zeros]
    exact isPilot_zero 1 h1 (fun k' hk' h => by have := h.1; omega)
  · rintro rfl ka ⟨ha1, ha2, -⟩
    simp only [guarded, hz]
    obtain rfl | rfl : ka = 1 ∨ ka = 2 := by omega
    · exact ⟨2, by norm_num, by norm_num, by norm_num⟩
    · exact ⟨1, by norm_num, by norm_num, by norm_num⟩
  · rintro rfl ⟨kb, hb1, hb2, hb3⟩
    obtain rfl : kb = 1 := by omega
    rw [hz] at hb3
    simp at hb3

/-- One tap, for which the sum of the taps is 2·fc/fs. -/
theorem designSum_one (fc fs : ℝ) : designSum 1 fc fs = 2 * fc / fs := by
  simp [designSum, designTap, sincOf]

/-- One tap on a source of one element. -/
theorem witness_ToneResult :
    let s := withCfg (fun c => { c with firSize := 1#32, toneCutoff := .rat 1 })
      (withArgs 0 1 2 8 (withBufs [(BufId.w0, pts [1])]))
    destinationOk BufId.w1 [BufId.w0] = true ∧ s.cfg.firSize.toNat ≠ 0
    ∧ s.cfg.firSize.toNat ≤ (s.buf BufId.w0).length ∧ s.arg.rate.toReal = 8 ∧ s.cfg.toneCutoff.toReal = 1
    ∧ (0 : ℝ) < 8 ∧ (0 : ℝ) < 1 ∧ (1 : ℝ) < 8 / 2 ∧ designSum s.cfg.firSize.toNat 1 8 ≠ 0 := by
  refine ⟨by decide, by decide, by decide, by simp [withCfg, withArgs, NUM.toReal], by simp [withCfg, NUM.toReal],
    by norm_num, by norm_num, by norm_num, ?_⟩
  change designSum 1 1 8 ≠ 0
  rw [designSum_one]
  norm_num

/-- One tap; fc just below half the rate. -/
theorem witness_LowpassUnitGain : 1 ≤ 1 ∧ (0 : ℝ) < 3.99 ∧ (3.99 : ℝ) < 8 / 2 := by norm_num

theorem cisOf_zero : cisOf 0 = 1 := by simp [cisOf]

/-- The slope over two points. -/
theorem slopeOf_two (t y : ℕ → ℝ) (h : t 0 ≠ t 1) : slopeOf 2 t y = (y 1 - y 0) / (t 1 - t 0) := by
  have h' : t 1 - t 0 ≠ 0 := sub_ne_zero.mpr h.symm
  simp only [slopeOf, Finset.sum_range_succ, Finset.sum_range_zero, zero_add]
  rw [div_eq_div_iff (by nlinarith [sq_nonneg (t 1 - t 0), mul_self_pos.mpr h']) h']
  push_cast
  ring

/-- Two samples of silence with one tap: at f = fs the residual is 0, and at f = 1, fs = 8 it is −f. -/
theorem witness_EqrateResult :
    let s := fun fs : ℚ => withCfg (fun c => { c with firSize := 1#32, toneCutoff := .rat (1 / 4) })
      (withArgs 0 1 1 fs (withBufs [(BufId.w0, List.replicate 2 ⟨.rat 0, .rat 0⟩)]))
    (∀ fs : ℚ, (s fs).cfg.firSize.toNat ≠ 0 ∧ (s fs).cfg.firSize.toNat ≤ ((s fs).buf BufId.w0).length
      ∧ 2 ≤ ((s fs).buf BufId.w0).length ∧ (s fs).arg.freq.toReal ≠ 0 ∧ (s fs).arg.rate.toReal = fs
      ∧ (s fs).cfg.toneCutoff.toReal = 1 / 4)
    ∧ ((1 : ℝ) / 4 < 1 / 2 ∧ designSum 1 (1 / 4) 1 ≠ 0
      ∧ 1 + residualOf 2 (sampleAt ((s 1).buf BufId.w0)) 1 1 1 (1 / 4) ≠ 0)
    ∧ ((1 : ℝ) / 4 < 8 / 2 ∧ designSum 1 (1 / 4) 8 ≠ 0
      ∧ 1 + residualOf 2 (sampleAt ((s 8).buf BufId.w0)) 1 8 1 (1 / 4) = 0) := by
  intro s
  have hb : ∀ fs, sampleAt ((s fs).buf BufId.w0) = fun _ => 0 := fun fs => by
    rw [← sampleAt_zeros 2]
    simp [s, withCfg, withArgs, withBufs, State.buf, State.setBuf]
  have ht : ∀ f0 fs, toneOf 1 (1 / 4) fs f0 (fun _ => 0) = fun _ => 0 := fun f0 fs => by
    funext n
    simp [toneOf]
  have hp := Real.pi_pos
  refine ⟨fun fs => ⟨by simp [s, withCfg], by simp [s, withCfg, withArgs, withBufs, State.buf, State.setBuf], ?_, ?_, ?_, ?_⟩,
    ⟨by norm_num, by rw [designSum_one]; norm_num, ?_⟩, ⟨by norm_num, by rw [designSum_one]; norm_num, ?_⟩⟩
  · simp [s, withCfg, withArgs, withBufs, State.buf, State.setBuf]
  · simp [s, withCfg, withArgs, NUM.toReal]
  · simp [s, withCfg, withArgs, NUM.toReal]
  · simp [s, withCfg, NUM.toReal]
  · rw [hb, residualOf, ht, slopeOf_two _ _ (by norm_num)]
    have h1 : cisOf (2 * Real.pi * 1 * (1 : ℕ) / 1) = 1 := by
      have : ((2 * Real.pi * 1 * (1 : ℕ) / 1 : ℝ) : ℂ) * Complex.I = 2 * Real.pi * Complex.I := by push_cast; ring
      rw [cisOf, this, Complex.exp_two_pi_mul_I]
    have h2 : phasediffOf (fun _ => 0) 1 1 1 = phasediffOf (fun _ => 0) 1 1 0 := by
      simp only [phasediffOf, unwrapOf]
      rw [h1]
      simp [cisOf_zero, wstepOf, hp.le]
    rw [h2]
    simp
  · rw [hb, residualOf, ht, slopeOf_two _ _ (by norm_num)]
    have h1 : Complex.arg (cisOf (2 * Real.pi * 1 * (1 : ℕ) / 8)) = Real.pi / 4 := by
      rw [cisOf, Complex.arg_exp_mul_I, (toIocMod_eq_self _).mpr]
      · push_cast; ring
      · constructor <;> push_cast <;> linarith
    have h2 : phasediffOf (fun _ => 0) 1 8 1 - phasediffOf (fun _ => 0) 1 8 0 = -(Real.pi / 4) := by
      simp only [phasediffOf, unwrapOf]
      rw [h1]
      have h3 : |Complex.arg 0 - Real.pi / 4 - (Complex.arg 0 - Complex.arg (cisOf (2 * Real.pi * 1 * (0 : ℕ) / 8)))| ≤ Real.pi := by
        simp [cisOf_zero]
        rw [abs_of_pos (by positivity)]
        linarith
      rw [wstepOf, if_pos h3]
      simp [cisOf_zero]
    rw [h2]
    push_cast
    field_simp
    norm_num

theorem witness_PhnoiseResult :
    let s := withArgs 0 1 1 8 (withBufs [(BufId.w0, pts [1])])
    destinationOk BufId.w1 [BufId.w0] = true ∧ s.buf BufId.w0 ≠ [] ∧ 0 < s.arg.rate.toReal := by
  refine ⟨by decide, by decide, ?_⟩
  change 0 < (NUM.rat 8).toReal
  norm_num [NUM.toReal]

/-- The steps 3, 4 and −4: one that is kept, one above π and one below −π. -/
theorem witness_UnwrapSteps :
    (0 + 1 < [(0 : ℝ), 3, 7, 3].length ∧ 2 + 1 < [(0 : ℝ), 3, 7, 3].length)
    ∧ |(3 : ℝ) - 0| ≤ Real.pi ∧ (0 : ℝ) < 3 - 0 ∧ Real.pi < 7 - 3 ∧ (3 : ℝ) - 7 < -Real.pi := by
  have h := Real.pi_gt_three
  have h' := Real.pi_lt_d2
  refine ⟨by simp, ?_, by norm_num, by linarith, by linarith⟩
  norm_num [abs_of_pos]
  linarith

/-- The greatest window that is off, and the least that is on. -/
theorem witness_SmoothMeans : 1 ≤ 1 ∧ 2 ≤ 2 ∧ 0 < [(0 : ℝ)].length := by simp

theorem witness_DownsamplePositions : (0 : ℝ) < 1 / 2 := by norm_num

/-- A trajectory that ends at the last symbol's position, and one that is one sample shorter. -/
theorem witness_PhcorrResult : ∀ n ∈ [2, 3],
    let s := withArgs 0 2 0 0 (withBufs [(BufId.w0, pts [1, 1]), (BufId.w1, (pts [0, 1, 2]).take n)])
    destinationOk BufId.w2 [BufId.w0, BufId.w1] = true ∧ s.buf BufId.w0 ≠ [] ∧ s.buf BufId.w1 ≠ []
    ∧ 0 < s.arg.factor.toReal
    ∧ (if n = 3 then posOf s.arg.start.toNat s.arg.factor.toReal ((s.buf BufId.w0).length - 1) < (s.buf BufId.w1).length
      else ((s.buf BufId.w1).length : ℤ) ≤ posOf s.arg.start.toNat s.arg.factor.toReal ((s.buf BufId.w0).length - 1)) := by
  intro n hn s
  have hp : posOf s.arg.start.toNat s.arg.factor.toReal ((s.buf BufId.w0).length - 1) = 2 := by
    change ⌈((0 : ℕ) : ℝ) + (1 : ℕ) * (NUM.rat 2).toReal - 1 / 2⌉ = 2
    rw [Int.ceil_eq_iff]
    norm_num [NUM.toReal]
  have hl : (s.buf BufId.w1).length = n := by
    simp only [List.mem_cons, List.not_mem_nil, or_false] at hn
    rcases hn with rfl | rfl <;> rfl
  have hf : 0 < s.arg.factor.toReal := by
    change 0 < (NUM.rat 2).toReal
    norm_num [NUM.toReal]
  rw [hp, hl]
  simp only [List.mem_cons, List.not_mem_nil, or_false] at hn
  rcases hn with rfl | rfl <;> exact ⟨by decide, by decide, by decide, hf, by norm_num⟩

theorem witness_FshiftResult :
    let s := withArgs 0 1 2 8 (withBufs [(BufId.w0, pts [1])])
    destinationOk BufId.w1 [BufId.w0] = true ∧ s.buf BufId.w0 ≠ [] ∧ 0 < s.arg.rate.toReal := by
  refine ⟨by decide, by decide, ?_⟩
  change 0 < (NUM.rat 8).toReal
  norm_num [NUM.toReal]

/-- As many elements as taps, and one fewer. -/
theorem witness_MfiltResult : ∀ n ∈ [11, 12],
    let s := withCfg (fun c => { c with symbolRate := .rat 1, rollOff := .rat 1 })
      (withArgs 0 1 0 1 (withBufs [(BufId.w0, List.replicate n ⟨.rat 1, .rat 0⟩)]))
    destinationOk BufId.w1 [BufId.w0] = true ∧ s.arg.factor.toReal = 1 ∧ s.arg.rate.toReal = 1
    ∧ s.cfg.rollOff.toReal = 1 ∧ s.cfg.symbolRate.toReal = 1 ∧ (0 : ℝ) < 1 ∧ (0 : ℝ) ≤ 1 ∧ (1 : ℝ) ≤ 1
    ∧ (s.buf BufId.w0).length = n
    ∧ (if n = 12 then ⌊10 * (1 : ℝ) + 2⌋₊ ≤ n else n < ⌊10 * (1 : ℝ) + 2⌋₊) := by
  intro n hn s
  have h : ⌊10 * (1 : ℝ) + 2⌋₊ = 12 := by norm_num
  refine ⟨by decide, ?_, ?_, ?_, ?_, one_pos, zero_le_one, le_refl _, ?_, ?_⟩
  · simp [s, withCfg, withArgs, NUM.toReal]
  · simp [s, withCfg, withArgs, NUM.toReal]
  · simp [s, withCfg, NUM.toReal]
  · simp [s, withCfg, NUM.toReal]
  · simp [s, withCfg, withArgs, withBufs, State.buf, State.setBuf]
  · rw [h]
    simp only [List.mem_cons, List.not_mem_nil, or_false] at hn
    rcases hn with rfl | rfl <;> simp

/-- A configuration that passes the entry checks of every variant on 50 samples: the bins of a capture of 50 are
multiples of 20 MHz, and one symbol takes 5 samples. With a shared local oscillator the pilot is at the rate itself. -/
def entryCfg (clockShared loShared : Bool) (c : CfgBank NUM) : CfgBank NUM :=
  { c with
    clockShared := clockShared, loShared := loShared, numPilots := 2#32, firSize := 1#32, numSymbols := 1#32
    sequenceLength := 25#32, adcRate := .rat 1000000000, symbolRate := .rat 200000000
    sequenceRate := .rat 1000000000, pilotFreq0 := .rat (if loShared then 1000000000 else 20000000)
    pilotFreq1 := .rat 40000000 }

/-- The capture is silent. -/
def entryState (clockShared loShared : Bool) : State := withCfg (entryCfg clockShared loShared) zeros50

/-- The numbers of that configuration. -/
theorem entry_toReal (cs lo : Bool) :
    let c := (entryState cs lo).cfg.toReal
    c.adcRate = 1000000000 ∧ c.symbolRate = 200000000 ∧ c.sequenceRate = 1000000000
    ∧ c.pilotFreq0 = (if lo then 1000000000 else 20000000) ∧ c.pilotFreq1 = 40000000 ∧ c.rollOff = 0
    ∧ c.toneCutoff = 10000000 ∧ c.abortClockThreshold = 0 := by
  cases lo <;>
    simp [entryState, entryCfg, withCfg, zeros50, withBufs, State.setBuf, State.reset, CfgBank.reset,
      CfgBank.toReal, NUM.toReal]

theorem entry_pilotsOk (cs lo : Bool) : PilotsOk (entryState cs lo).cfg.toReal := by
  unfold PilotsOk
  split <;> simp [entryState, entryCfg, withCfg, CfgBank.toReal]

theorem entry_operandsOk (cs lo : Bool) : OperandsOk (entryState cs lo).cfg.toReal 50 := by
  obtain ⟨h1, h2, h3, h4, h5, h6, h7, h8⟩ := entry_toReal cs lo
  refine ⟨le_refl _, ?_, ?_, ?_, ?_, ?_, ?_, ?_, ?_, ?_, ?_, ?_, ?_, ?_⟩
  · rw [h1]; norm_num
  · rw [h2]; norm_num
  · rw [h3]; norm_num
  · simp [entryState, entryCfg, withCfg, CfgBank.toReal]
  · simp [entryState, entryCfg, withCfg, CfgBank.toReal]
  · rw [h6]
  · rw [h6]; norm_num
  · simp [entryState, entryCfg, withCfg, CfgBank.toReal]
  · rw [h7]; norm_num
  · rw [h8]
  · exact fun h => Bool.noConfusion (show false = true from h)
  · rintro - h
    change lo = true at h
    rw [h4, h]
    norm_num
  · rintro - h
    change lo = false at h
    rw [h4, h5, h]
    norm_num

theorem entryOk (cs lo : Bool) : EntryOk (entryState cs lo).cfg.toReal 50 1 := by
  obtain ⟨h1, h2, h3, -⟩ := entry_toReal cs lo
  refine ⟨rfl, entry_pilotsOk cs lo, entry_operandsOk cs lo, ⟨le_refl _, ?_⟩, show 25 * 1 ≤ 50 by norm_num, Config.maxSf_pos⟩
  rw [h1, h3]
  norm_num

/-- The entry checks of RUN in their order, each with the checks before it passed; those of SPECIAL likewise. -/
theorem witness_EntryErrors :
    ((withCfg (fun c => { c with detectionSchema := 1#32 }) State.reset).cfg.detectionSchema ≠ 0#32
      ∧ State.reset.cfg.detectionSchema = 0#32 ∧ ¬ PilotsOk State.reset.cfg.toReal
      ∧ PilotsOk (withCfg (fun c => { c with numPilots := 2#32 }) State.reset).cfg.toReal
      ∧ ¬ OperandsOk (withCfg (fun c => { c with numPilots := 2#32 }) State.reset).cfg.toReal 0)
    ∧ (∀ cs lo : Bool,
      let s := entryState cs lo
      let real := fun f => (withCfg f s).cfg.toReal
      let noFactor := real fun c => { c with sequenceRate := .rat 2000000000 }
      let long := real fun c => { c with sequenceLength := 51#32 }
      let many := real fun c =>
        { c with numSymbols := 5000#32, processSubframes := true, subframeLength := 1#32 }
      (s.buf BufId.cap).length = 50
      ∧ (PilotsOk noFactor ∧ OperandsOk noFactor 50 ∧ ¬ ∃ q : ℕ, IsRepeatFactor noFactor q)
      ∧ (PilotsOk long ∧ OperandsOk long 50 ∧ IsRepeatFactor long 1 ∧ 50 < long.sequenceLength.toNat * 1)
      ∧ (PilotsOk many ∧ OperandsOk many 50 ∧ IsRepeatFactor many 1 ∧ many.sequenceLength.toNat * 1 ≤ 50
        ∧ Config.maxSf < planCount many))
    ∧ (let b : SnapBank NUM := ⟨.rat 1, .rat (1 / (4 * Config.bufMax)), .rat 0, .rat 0, 0#32⟩
      let s := { withBufs [(BufId.calE, pts [1, 2]), (BufId.calES, pts [1])] with snap := b }
      ({ SnapBank.reset with schema := 1#32 } : SnapBank NUM).schema ≠ 0#32
      ∧ State.reset.snap.schema = 0#32 ∧ ¬ 0 < State.reset.snap.toReal.symbolRate
      ∧ b.schema = 0#32 ∧ 0 < b.toReal.symbolRate ∧ 0 < b.toReal.equiRate ∧ 0 ≤ b.toReal.rollOff
      ∧ b.toReal.rollOff ≤ 1 ∧ State.reset.buf BufId.calE = []
      ∧ s.buf BufId.calE ≠ [] ∧ s.buf BufId.calES ≠ []
      ∧ posOf 0 (b.toReal.equiRate / b.toReal.symbolRate) Config.bufMax < (s.buf BufId.calE).length) := by
  have hb : (50 : ℝ) ≤ Config.bufMax := by exact_mod_cast Config.bufMax_ge
  refine ⟨⟨by decide, rfl, ?_, ?_, fun h => absurd h.1 (by norm_num)⟩, fun cs lo => ?_, ?_⟩
  · simp [PilotsOk, State.reset, CfgBank.reset, CfgBank.toReal]
  · simp [PilotsOk, withCfg, State.reset, CfgBank.reset, CfgBank.toReal]
  · obtain ⟨h1, h2, h3, -⟩ := entry_toReal cs lo
    obtain ⟨-, hp, ho, hq, -⟩ := entryOk cs lo
    have ho' := ho
    obtain ⟨o1, o2, o3, o4, o5, o6, o7, o8, o9, o10, o11, o12, o13, o14⟩ := ho'
    have hr : (NUM.rat 2000000000).toReal = 2000000000 := by norm_num [NUM.toReal]
    refine ⟨rfl, ⟨hp, ?_, ?_⟩, ⟨hp, ?_, hq, show 50 < 51 * 1 by norm_num⟩,
      ⟨hp, ?_, hq, show 25 * 1 ≤ 50 by norm_num, ?_⟩⟩
    · exact ⟨o1, o2, o3, show 0 < (NUM.rat 2000000000).toReal by rw [hr]; norm_num, o5, o6, o7, o8, o9, o10, o11, o12, o13, o14⟩
    · rintro ⟨q, hq1, hq2⟩
      have hq2 : (entryState cs lo).cfg.toReal.adcRate / (NUM.rat 2000000000).toReal = q := hq2
      rw [h1, hr] at hq2
      have : (1 : ℝ) ≤ q := by exact_mod_cast hq1
      rw [← hq2] at this
      norm_num at this
    · exact ⟨o1, o2, o3, o4, o5, show 51#32 ≠ 0#32 by decide, o7, o8, o9, o10, o11, o12, o13, o14⟩
    · exact ⟨o1, o2, o3, o4, show 5000#32 ≠ 0#32 by decide, o6, o7, o8, o9, o10, o11,
        fun _ => show 1#32 ≠ 0#32 by decide, o13, o14⟩
    · have := Config.maxSf_le
      change Config.maxSf < ⌈((5000 : ℕ) : ℚ) / (1 : ℕ)⌉₊
      rw [Nat.cast_one, div_one, Nat.ceil_natCast]
      omega
  · have hf : (NUM.rat (1 / (4 * (Config.bufMax : ℚ)))).toReal = 1 / (4 * (Config.bufMax : ℝ)) := by
      simp [NUM.toReal]
    have h1 : (NUM.rat 1).toReal = 1 := by norm_num [NUM.toReal]
    have h0 : (NUM.rat 0).toReal = 0 := by norm_num [NUM.toReal]
    refine ⟨by decide, rfl, ?_, rfl, ?_, ?_, ?_, ?_, rfl, by decide, by decide, ?_⟩
    · change ¬ 0 < (NUM.rat 0).toReal
      rw [h0]; norm_num
    · change 0 < (NUM.rat 1).toReal
      rw [h1]; norm_num
    · change 0 < (NUM.rat (1 / (4 * (Config.bufMax : ℚ)))).toReal
      rw [hf]; positivity
    · change 0 ≤ (NUM.rat 0).toReal
      rw [h0]
    · change (NUM.rat 0).toReal ≤ 1
      rw [h0]; norm_num
    · change ⌈((0 : ℕ) : ℝ) + Config.bufMax * ((NUM.rat (1 / (4 * (Config.bufMax : ℚ)))).toReal / (NUM.rat 1).toReal) - 1 / 2⌉
        < ((2 : ℕ) : ℤ)
      rw [hf, h1, Int.ceil_lt_iff]
      have : (Config.bufMax : ℝ) * (1 / (4 * Config.bufMax) / 1) = 1 / 4 := by field_simp
      rw [this]
      norm_num

/-- The bins of silence: with no zone, the pilot is bin 1; with a guard band of 5 MHz below the bin spacing, the second
pilot is bin 2. -/
theorem isPilotPair_zero {N : ℕ} {rate : ℝ} (hN : 5 ≤ N) (hr : 5000000 < rate / N) :
    IsPilotPair N (fun _ => 0) rate [] 5000000 (rate / N) (2 * rate / N) := by
  have hd : (0 : ℝ) < rate / N := by linarith
  have e2 : 2 * rate / N = rate / N + rate / N := by ring
  refine ⟨(1 : ℕ) * rate / N, (2 : ℕ) * rate / N, isPilot_zero 1 ⟨le_refl _, by omega, by simp⟩ ?_,
    isPilot_zero 2 ⟨by omega, by omega, ?_⟩ ?_, ?_, ?_⟩
  · rintro k hk ⟨h, -⟩
    omega
  · intro z hz
    simp only [List.mem_singleton] at hz
    subst hz
    push_cast
    rw [one_mul, e2]
    rintro ⟨-, h⟩
    linarith
  · rintro k hk ⟨h, -, hz⟩
    obtain rfl : k = 1 := by omega
    refine hz _ (List.mem_singleton.mpr rfl) ⟨?_, ?_⟩ <;> linarith
  · push_cast
    rw [one_mul, min_eq_left]
    linarith
  · push_cast
    rw [one_mul, max_eq_right]
    linarith

/-- RUN on a silent capture, in each of the four variants; in the general one the second pass moves the beat. -/
theorem witness_RunCompletes : ∀ cs lo : Bool,
    let s := entryState cs lo
    let cfg := s.cfg.toReal
    let zones := zoneValues s.zones
    let N := (s.buf BufId.cap).length
    let x := sampleAt (s.buf BufId.cap)
    let e := 0 + s.cfg.sequenceLength.toNat * 1
    let D := dataEndOf cfg N e 1000000000 - e
    let J := planCount cfg
    let sps := 1000000000 / cfg.symbolRate
    let span := aPrioriSpan cfg e (dataEndOf cfg N e 1000000000) 1000000000
    ∃ (beat0 fBeat : ℝ) (obs0 obs1 : Option ℝ),
      EntryOk cfg N 1 ∧ IsStage1 cfg zones N x 1000000000 beat0 obs0 obs1
      ∧ IsClock cfg 1000000000 beat0 obs0 1000000000 beat0
      ∧ IsStage2 cfg zones N x 1 1000000000 beat0 fBeat 0
      ∧ (3 ≤ D → designSum s.cfg.firSize.toNat cfg.toneCutoff 1000000000 ≠ 0) ∧ N ≤ Config.bufMax
      ∧ (cfg.clockShared = true → (∀ j : ℕ, j < J → 3 ≤ span j → Trackable cfg zones 1000000000 (span j))
        ∧ (∑ j ∈ Finset.range J, span j) ≤ Config.bufMax
        ∧ (∑ j ∈ Finset.range J, ⌈span j / sps⌉₊) ≤ Config.bufMax)
      ∧ (cfg.clockShared = false → (∀ m : ℕ, 3 ≤ m → m ≤ D → (m = D ∨ 1 < J) → Trackable cfg zones 1000000000 m)
        ∧ ⌊D / sps⌋₊ + min J (D / 3) ≤ Config.bufMax) := by
  intro cs lo s cfg zones N x e D J sps span
  have hm := Config.bufMax_ge
  obtain ⟨h1, h2, h3, h4, h5, h6, h7, h8⟩ := entry_toReal cs lo
  change cfg.adcRate = _ at h1
  change cfg.symbolRate = _ at h2
  change cfg.pilotFreq0 = _ at h4
  change cfg.pilotFreq1 = _ at h5
  change cfg.toneCutoff = _ at h7
  change cfg.abortClockThreshold = _ at h8
  have hx : x = fun _ => 0 := sampleAt_zeros 50
  have hz : zones = [] := rfl
  have hN : N = 50 := rfl
  have hcs : cfg.clockShared = cs := rfl
  have hlo : cfg.loShared = lo := rfl
  have hfir : cfg.firSize.toNat = 1 := rfl
  have hplan : planCount cfg = 1 := rfl
  have hD : D = 5 := by
    change min 50 (25 + ⌈(1 : ℕ) * (1000000000 / cfg.symbolRate) - 1 / 2⌉₊) - 25 = 5
    rw [h2, show ((1 : ℕ) * ((1000000000 : ℝ) / 200000000) - 1 / 2) = 9 / 2 by norm_num,
      show ⌈(9 / 2 : ℝ)⌉₊ = 5 by rw [Nat.ceil_eq_iff] <;> norm_num]
    norm_num
  have hsps : sps = 5 := by
    change (1000000000 : ℝ) / cfg.symbolRate = 5
    rw [h2]
    norm_num
  have hspan : cs = true → span 0 = 5 := fun hc => by
    have he : dataEndOf cfg N e 1000000000 = 30 := by
      have : D = dataEndOf cfg N e 1000000000 - 25 := rfl
      omega
    have hw : windowOf cfg e 30 1000000000 0 e = (25, 30) := by
      have hc5 : ⌈(5 : ℝ) - 1 / 2⌉₊ = 5 := by rw [Nat.ceil_eq_iff] <;> norm_num
      have hc0 : ⌈(0 : ℝ) - 1 / 2⌉₊ = 0 := by rw [Nat.ceil_eq_zero]; norm_num
      change (min (if cfg.clockShared = true then 25 + ⌈((0 * 1 : ℕ) : ℝ) * sps - 1 / 2⌉₊ else 25) 30,
        min 30 (min (if cfg.clockShared = true then 25 + ⌈((0 * 1 : ℕ) : ℝ) * sps - 1 / 2⌉₊ else 25) 30
          + ⌈((1 : ℕ) : ℝ) * sps - 1 / 2⌉₊)) = (25, 30)
      rw [hcs, hc, if_pos rfl, hsps, Nat.zero_mul, Nat.cast_zero, Nat.cast_one, zero_mul, one_mul, hc5, hc0]
      rfl
    change aPrioriSpan cfg e (dataEndOf cfg N e 1000000000) 1000000000 0 = 5
    rw [he]
    unfold aPrioriSpan
    rw [hw]
    rfl
  have hna : ¬ ClockAborts cfg 1000000000 := fun h => by
    have := h.2.1
    rw [h8] at this
    exact lt_irrefl _ this
  have hclock : ∀ (b : ℝ) (o : Option ℝ), IsClock cfg 1000000000 b o 1000000000 b := fun b o =>
    ⟨⟨fun _ => ⟨rfl, rfl⟩, fun h => absurd h hna⟩, by norm_num, by rw [h7]; norm_num⟩
  have hsync : ∀ b : ℝ, IsSync 50 (shiftedBy x b 1000000000) cfg.sequenceRoot.toNat cfg.sequenceLength.toNat 1 0 := by
    intro b
    rw [hx, shiftedBy_zero]
    exact isSync_zero _ _ _ (show 25 * 1 ≤ 50 by norm_num)
  have hpair : ∀ M : ℕ, 5 ≤ M → M ≤ 50 →
      IsPilotPair M (fun _ => 0) 1000000000 [] 5000000 (1000000000 / M) (2 * 1000000000 / M) := fun M h5 h50 => by
    refine isPilotPair_zero h5 ?_
    have : (M : ℝ) ≤ 50 := by exact_mod_cast h50
    have : (5 : ℝ) ≤ M := by exact_mod_cast h5
    rw [lt_div_iff₀ (by linarith)]
    linarith
  have hsecond : ∀ b : ℝ, ¬ (cs = false ∧ lo = false) →
      IsStage2 cfg zones N x 1 1000000000 b b 0 := fun b h =>
    ⟨0, hsync b, fun _ => ⟨rfl, rfl⟩, fun h' => absurd ⟨h'.1, h'.2.1⟩ h⟩
  have hstage : ∃ (beat0 fBeat : ℝ) (obs0 obs1 : Option ℝ),
      IsStage1 cfg zones N x 1000000000 beat0 obs0 obs1 ∧ IsStage2 cfg zones N x 1 1000000000 beat0 fBeat 0 := by
    cases cs <;> cases lo
    · refine ⟨0, 20000000, some (1000000000 / (50 : ℕ)), some (2 * 1000000000 / (50 : ℕ)), ?_, 0, hsync 0, ?_, ?_⟩
      · unfold IsStage1
        rw [hcs, hlo, h1, h4, h5, hx, hz]
        exact ⟨_, _, hpair 50 (by norm_num) (le_refl _), by norm_num, by norm_num, rfl, rfl⟩
      · exact fun h => absurd ⟨rfl, rfl, show 3 ≤ 25 by norm_num⟩ h
      · rintro -
        have hcut : cutOut x (0 + cfg.sequenceLength.toNat * 1)
            (min N (0 + cfg.sequenceLength.toNat * 1 + cfg.beatSampleCount.toNat)) = fun _ => 0 := by
          funext n
          simp [cutOut, hx]
        rw [hcut, hz, h4]
        exact ⟨_, _, hpair 25 (by norm_num) (by norm_num), by norm_num, hsync _⟩
    · refine ⟨0, 0, some 1000000000, none, ?_, hsecond 0 (by simp)⟩
      have ht : toneOf cfg.firSize.toNat cfg.toneCutoff cfg.adcRate cfg.pilotFreq0 x = fun _ => 0 := by
        funext n
        simp [toneOf, hx]
      have hp : phasediffOf (fun _ => 0) 1000000000 1000000000 = fun _ => 0 := by
        have hc : ∀ n : ℕ, cisOf (2 * Real.pi * 1000000000 * n / 1000000000) = 1 := fun n => by
          rw [cisOf, ← Complex.exp_nat_mul_two_pi_mul_I n]
          congr 1
          push_cast
          field_simp
        funext n
        unfold phasediffOf
        simp only [hc]
        induction n with
        | zero => simp [unwrapOf]
        | succ n ih => rw [unwrapOf, ih, sub_self]; simp [wstepOf, Real.pi_pos.le]
      have hr : residualOf N x cfg.pilotFreq0 cfg.adcRate cfg.firSize.toNat cfg.toneCutoff = 0 := by
        unfold residualOf
        rw [ht, h4, h1, if_pos rfl, hp]
        simp [slopeOf]
      unfold IsStage1
      rw [hcs, hlo]
      simp only [hr]
      rw [hfir, designSum_one, h1, h4, h7]
      norm_num
    · refine ⟨0, 0, some 20000000, none, ?_, hsecond 0 (by simp)⟩
      unfold IsStage1
      rw [hcs, hlo, h1, h4, hx, hz]
      refine ⟨_, isPilot_zero 1 ⟨le_refl _, show 1 < (50 + 1) / 2 by norm_num, by simp⟩ ?_, rfl, ?_, ?_, rfl⟩
      · rintro k hk ⟨h, -⟩
        omega
      · norm_num [hN]
      · norm_num [hN]
    · refine ⟨0, 0, none, none, ?_, hsecond 0 (by simp)⟩
      unfold IsStage1
      rw [hcs, hlo]
      exact ⟨h1.symm, rfl, rfl, rfl⟩
  obtain ⟨beat0, fBeat, obs0, obs1, hs1, hs2⟩ := hstage
  have hadm : ∀ k : ℕ, AdmittedBin 5 1000000000 [] k ↔ k = 1 ∨ k = 2 := fun k =>
    ⟨fun h => by have := h.1; have := h.2.1; omega, fun h => ⟨by omega, by omega, by simp⟩⟩
  have htrack : Trackable cfg zones 1000000000 5 := by
    rw [hz]
    refine ⟨⟨1, (hadm 1).mpr (.inl rfl)⟩, ?_⟩
    rintro - - ka ha
    have : AdmittedBin 5 1000000000 [] (3 - ka) := by
      rw [hadm] at ha ⊢
      omega
    refine ⟨3 - ka, this.1, this.2.1, ?_⟩
    intro z hzz
    simp only [List.mem_singleton] at hzz
    subst hzz
    rw [hadm] at ha
    rcases ha with rfl | rfl <;> norm_num
  refine ⟨beat0, fBeat, obs0, obs1, entryOk cs lo, hs1, hclock _ _, hs2, ?_, by omega, ?_, ?_⟩
  · rintro -
    change designSum cfg.firSize.toNat _ _ ≠ 0
    rw [hfir, designSum_one, h7]
    norm_num
  · intro hc
    have h5 := hspan hc
    rw [show J = 1 from hplan, Finset.sum_range_one, Finset.sum_range_one, h5, hsps]
    refine ⟨fun j hj _ => ?_, by omega, ?_⟩
    · obtain rfl : j = 0 := by omega
      rw [h5]
      exact htrack
    · rw [show ⌈((5 : ℕ) : ℝ) / 5⌉₊ = 1 by norm_num]
      omega
  · rintro -
    rw [show J = 1 from hplan, hD, hsps]
    refine ⟨?_, ?_⟩
    · rintro m - - (rfl | h)
      · exact htrack
      · omega
    · rw [show ⌊((5 : ℕ) : ℝ) / 5⌋₊ = 1 by norm_num]
      omega

/-- The pilots of silence in stage 1 of the general variant. -/
theorem stage1_zero {cfg : CfgBank ℝ} (hc : cfg.clockShared = false) (hl : cfg.loShared = false)
    (h1 : cfg.adcRate = 1000000000) (h2 : cfg.pilotFreq0 = 20000000) (h3 : cfg.pilotFreq1 = 40000000) :
    IsStage1 cfg [] 50 (fun _ => 0) 1000000000 0 (some (1000000000 / (50 : ℕ))) (some (2 * 1000000000 / (50 : ℕ))) := by
  unfold IsStage1
  rw [hc, hl, h1, h2, h3]
  exact ⟨_, _, isPilotPair_zero (by norm_num) (by norm_num), by norm_num, by norm_num, rfl, rfl⟩

theorem sync_zero (b fs : ℝ) (u L : ℕ) (h : L ≤ 50) : IsSync 50 (shiftedBy (fun _ => 0) b fs) u L 1 0 := by
  rw [shiftedBy_zero]
  exact isSync_zero _ _ _ (by omega)

/-- One tap leaves a signal as it is. -/
theorem toneOf_one {fc fs f0 : ℝ} (x : ℤ → ℂ) (hc : 2 * fc / fs ≠ 0) : toneOf 1 fc fs f0 x = x := by
  funext n
  have h : designTap 1 fc fs 0 = designSum 1 fc fs := by simp [designSum]
  have h' : designSum 1 fc fs ≠ 0 := by rw [designSum_one]; exact hc
  simp [toneOf, toneTapOf, h, h', cisOf_zero]

/-- The slope does not see the mean of `y`. -/
theorem slopeOf_eq (N : ℕ) (hN : N ≠ 0) (t y : ℕ → ℝ) :
    slopeOf N t y = (∑ n ∈ Finset.range N, (t n - (∑ n ∈ Finset.range N, t n) / N) * y n)
      / ∑ n ∈ Finset.range N, (t n - (∑ n ∈ Finset.range N, t n) / N) ^ 2 := by
  have h : ∑ n ∈ Finset.range N, (t n - (∑ n ∈ Finset.range N, t n) / N) = 0 := by
    rw [Finset.sum_sub_distrib, Finset.sum_const, Finset.card_range, nsmul_eq_mul,
      mul_div_cancel₀ _ (by exact_mod_cast hN), sub_self]
  unfold slopeOf
  simp only [mul_sub]
  rw [Finset.sum_sub_distrib, ← Finset.sum_mul, h, zero_mul, sub_zero]

theorem unwrapOf_eq (p : ℕ → ℝ) : ∀ n : ℕ, (∀ k < n, |p (k + 1) - p k| ≤ Real.pi) → unwrapOf p n = p n
  | 0, _ => rfl
  | n + 1, h => by
    rw [unwrapOf, unwrapOf_eq p n (fun k hk => h k (by omega)), wstepOf, if_pos (h n (by omega))]
    ring

/-- The residual at 5 MHz of a signal whose phase is 0 but in its last sample. -/
theorem residual_step : ∃ K : ℝ, 0 < K ∧ ∀ (x : ℤ → ℂ) (a : ℝ), |a| ≤ Real.pi / 2 →
    (∀ n : ℕ, n < 50 → Complex.arg (x n) = if n = 49 then a else 0) →
    residualOf 50 x 5000000 1000000000 1 10000000 = K * a - 5000000 := by
  have hp := Real.pi_pos
  let t : ℕ → ℝ := fun n => n / 1000000000
  let m : ℝ := (∑ n ∈ Finset.range 50, t n) / (50 : ℕ)
  let S : ℝ := ∑ n ∈ Finset.range 50, (t n - m) ^ 2
  have hm : m = 24.5 / 1000000000 := by
    have : ∑ n ∈ Finset.range 50, (n : ℝ) = 1225 := by
      rw [← Nat.cast_sum, Finset.sum_range_id]
      norm_num
    simp only [m, t]
    rw [← Finset.sum_div, this]
    norm_num
  have hS : 0 < S := by
    refine Finset.sum_pos' (fun n _ => sq_nonneg _) ⟨0, by simp, ?_⟩
    rw [hm]
    norm_num [t]
  have h0 : ∑ n ∈ Finset.range 50, (t n - m) = 0 := by
    rw [Finset.sum_sub_distrib, Finset.sum_const, Finset.card_range, nsmul_eq_mul,
      mul_div_cancel₀ _ (by norm_num), sub_self]
  have hSt : ∑ n ∈ Finset.range 50, (t n - m) * t n = S := by
    have : ∀ n, (t n - m) ^ 2 = (t n - m) * t n - (t n - m) * m := fun n => by ring
    simp only [S, this]
    rw [Finset.sum_sub_distrib, ← Finset.sum_mul _ _ m, h0, zero_mul, sub_zero]
  refine ⟨(t 49 - m) / S / (2 * Real.pi), ?_, ?_⟩
  · rw [hm]
    refine div_pos (div_pos ?_ hS) (by positivity)
    norm_num [t]
  · intro x a ha hx
    have hc : ∀ n : ℕ, n < 50 → Complex.arg (cisOf (2 * Real.pi * 5000000 * n / 1000000000)) = Real.pi * n / 100 := by
      intro n hn
      have hn' : (n : ℝ) ≤ 49 := by exact_mod_cast (by omega : n ≤ 49)
      have hn0 : (0 : ℝ) ≤ n := Nat.cast_nonneg n
      have e : 2 * Real.pi * 5000000 * n / 1000000000 = Real.pi * n / 100 := by ring
      rw [cisOf, e, Complex.arg_exp_mul_I, (toIocMod_eq_self _).mpr]
      constructor
      · have : 0 ≤ Real.pi * n / 100 := by positivity
        linarith
      · nlinarith
    have hpd : ∀ n : ℕ, n < 50 → phasediffOf x 5000000 1000000000 n = (if n = 49 then a else 0) - Real.pi * n / 100 := by
      intro n hn
      unfold phasediffOf
      rw [unwrapOf_eq, hc n hn, hx n hn]
      intro k hk
      rw [hc _ (by omega), hc _ (by omega), hx _ (by omega), hx _ (by omega)]
      rw [if_neg (by omega : ¬ k = 49)]
      push_cast
      rw [abs_le] at ha ⊢
      split <;> constructor <;> linarith [ha.1, ha.2]
    unfold residualOf
    rw [toneOf_one x (by norm_num), slopeOf_eq 50 (by norm_num)]
    have hnum : ∑ n ∈ Finset.range 50, (t n - m) * phasediffOf x 5000000 1000000000 n
        = (t 49 - m) * a - 10000000 * Real.pi * S := by
      have : ∀ n ∈ Finset.range 50, (t n - m) * phasediffOf x 5000000 1000000000 n
          = (if n = 49 then (t 49 - m) * a else 0) - 10000000 * Real.pi * ((t n - m) * t n) := by
        intro n hn
        rw [hpd n (Finset.mem_range.mp hn)]
        have e : Real.pi * n / 100 = 10000000 * Real.pi * t n := by simp only [t]; ring
        rw [e]
        split
        · subst n; ring
        · ring
      rw [Finset.sum_congr rfl this, Finset.sum_sub_distrib, ← Finset.mul_sum, hSt, Finset.sum_ite_eq']
      simp
    change (∑ n ∈ Finset.range 50, (t n - m) * phasediffOf x 5000000 1000000000 n) / S / (2 * Real.pi) = _
    rw [hnum]
    field_simp
    ring

/-- For RunStops, stage 1: in the instances that have a zone, one that excludes every bin; a cutoff of half the rate; a
pilot whose observed frequency is 0; bins that all lie in the guard band. -/
theorem witness_RunStops_stage1 :
    (0 < Config.maxExcl →
      let s := { withCfg (fun c => { c with numExcl := 1#32 }) (entryState true false) with
        exclHi := [.rat 1000000000] }
      EntryOk s.cfg.toReal (s.buf BufId.cap).length 1
      ∧ Stage1Stops s.cfg.toReal (zoneValues s.zones) (s.buf BufId.cap).length (sampleAt (s.buf BufId.cap)) .errArg)
    ∧ (let s := withCfg (fun c => { c with toneCutoff := .rat 500000000 }) (entryState false true)
      EntryOk s.cfg.toReal (s.buf BufId.cap).length 1
      ∧ Stage1Stops s.cfg.toReal (zoneValues s.zones) (s.buf BufId.cap).length (sampleAt (s.buf BufId.cap)) .errArg)
    ∧ (let s := withCfg (fun c => { c with pilotFreq0 := .rat 5000000 }) (entryState false true)
      EntryOk s.cfg.toReal (s.buf BufId.cap).length 1
      ∧ Stage1Stops s.cfg.toReal (zoneValues s.zones) (s.buf BufId.cap).length (sampleAt (s.buf BufId.cap)) .errNumeric)
    ∧ (let s := withCfg (fun c => { c with adcRate := .rat 50, sequenceRate := .rat 50 }) (entryState false false)
      EntryOk s.cfg.toReal (s.buf BufId.cap).length 1
      ∧ Stage1Stops s.cfg.toReal (zoneValues s.zones) (s.buf BufId.cap).length (sampleAt (s.buf BufId.cap))
        .errArg) := by
  have hx : sampleAt (zeros50.buf BufId.cap) = fun _ => 0 := sampleAt_zeros 50
  refine ⟨fun hm => ⟨?_, ?_⟩, ⟨?_, ?_⟩, ⟨?_, ?_⟩, ⟨?_, ?_⟩⟩
  · obtain ⟨e1, e2, ⟨o1, o2, o3, o4, o5, o6, o7, o8, o9, o10, o11, o12, o13, o14⟩, e4, e5, e6⟩ := entryOk true false
    exact ⟨e1, e2, ⟨o1, o2, o3, o4, o5, o6, o7, o8, o9, o10, o11, o12, o13, o14⟩, e4, e5, e6⟩
  · obtain ⟨h1, -⟩ := entry_toReal true false
    refine ⟨?_, rfl⟩
    rintro ⟨k, hk1, hk2, hk3⟩
    have hz : ((0 : ℝ), (1000000000 : ℝ)) ∈ zoneValues ({ withCfg (fun c => { c with numExcl := 1#32 })
        (entryState true false) with exclHi := [.rat 1000000000] } : State).zones := by
      refine List.mem_map.mpr ⟨(.rat 0, .rat 1000000000), ?_, by simp [NUM.toReal]⟩
      refine List.mem_map.mpr ⟨0, ?_, rfl⟩
      change 0 ∈ (List.range Config.maxExcl).take 1
      rw [List.take_range, List.mem_range]
      omega
    refine hk3 _ hz ?_
    change (0 : ℝ) ≤ k * (entryState true false).cfg.toReal.adcRate / (50 : ℕ)
      ∧ k * (entryState true false).cfg.toReal.adcRate / (50 : ℕ) ≤ (1000000000 : ℝ)
    have hk : k < (50 + 1) / 2 := hk2
    have hk' : (k : ℝ) ≤ 25 := by exact_mod_cast (by omega : k ≤ 25)
    rw [h1]
    push_cast
    constructor
    · positivity
    · linarith
  · obtain ⟨e1, e2, ⟨o1, o2, o3, o4, o5, o6, o7, o8, o9, o10, o11, o12, o13, o14⟩, e4, e5, e6⟩ := entryOk false true
    refine ⟨e1, e2, ⟨o1, o2, o3, o4, o5, o6, o7, o8, o9, ?_, o11, o12, o13, o14⟩, e4, e5, e6⟩
    change 0 < (NUM.rat 500000000).toReal
    norm_num [NUM.toReal]
  · obtain ⟨h1, -⟩ := entry_toReal false true
    refine Or.inl ⟨?_, rfl⟩
    change (entryState false true).cfg.toReal.adcRate / 2 ≤ (NUM.rat 500000000).toReal
    rw [h1]
    norm_num [NUM.toReal]
  · obtain ⟨e1, e2, ⟨o1, o2, o3, o4, o5, o6, o7, o8, o9, o10, o11, o12, o13, o14⟩, e4, e5, e6⟩ := entryOk false true
    refine ⟨e1, e2, ⟨o1, o2, o3, o4, o5, o6, o7, o8, o9, o10, o11, o12, fun _ _ => ?_,
      fun _ h => Bool.noConfusion (show true = false from h)⟩, e4, e5, e6⟩
    change (NUM.rat 5000000).toReal ≠ 0
    norm_num [NUM.toReal]
  · obtain ⟨h1, h2, h3, h4, h5, h6, h7, h8⟩ := entry_toReal false true
    obtain ⟨K, -, hK⟩ := residual_step
    have hf : (NUM.rat 5000000).toReal = 5000000 := by norm_num [NUM.toReal]
    have hr : residualOf 50 (sampleAt (zeros50.buf BufId.cap)) (NUM.rat 5000000).toReal
        (entryState false true).cfg.toReal.adcRate 1 (entryState false true).cfg.toReal.toneCutoff = -5000000 := by
      rw [hf, h1, h7, hK _ 0 (by rw [abs_zero]; exact (half_pos Real.pi_pos).le) (fun n _ => by rw [hx]; simp)]
      ring
    refine Or.inr ⟨?_, Or.inr ?_, rfl⟩
    · change (entryState false true).cfg.toReal.toneCutoff < (entryState false true).cfg.toReal.adcRate / 2
      rw [h1, h7]
      norm_num
    · change (NUM.rat 5000000).toReal + residualOf 50 (sampleAt (zeros50.buf BufId.cap)) (NUM.rat 5000000).toReal
        (entryState false true).cfg.toReal.adcRate 1 (entryState false true).cfg.toReal.toneCutoff = 0
      rw [hr, hf]
      norm_num
  · obtain ⟨e1, e2, ⟨o1, o2, o3, o4, o5, o6, o7, o8, o9, o10, o11, o12, o13, o14⟩, e4, e5, e6⟩ := entryOk false false
    have hr : (NUM.rat 50).toReal = 50 := by norm_num [NUM.toReal]
    have hp : 0 < (NUM.rat 50).toReal := by rw [hr]; norm_num
    refine ⟨e1, e2, ⟨o1, hp, o3, hp, o5, o6, o7, o8, o9, o10, o11, o12, o13, o14⟩, ⟨le_refl _, ?_⟩, e5, e6⟩
    change (NUM.rat 50).toReal / (NUM.rat 50).toReal = (1 : ℕ)
    rw [hr]
    norm_num
  · refine ⟨Or.inr ?_, rfl⟩
    change ∃ fa : ℝ, IsPilot 50 (sampleAt (zeros50.buf BufId.cap)) (NUM.rat 50).toReal [] fa
      ∧ NoPilot 50 (NUM.rat 50).toReal ((fa - 5000000, fa + 5000000) :: [])
    rw [hx, show (NUM.rat 50).toReal = 50 by norm_num [NUM.toReal]]
    refine ⟨_, isPilot_zero 1 ⟨le_refl _, by norm_num, by simp⟩ (fun k hk h => by have := h.1; omega), ?_⟩
    rintro ⟨k, hk1, hk2, hk3⟩
    have hk' : (k : ℝ) ≤ 25 := by exact_mod_cast (by omega : k ≤ 25)
    have hk0 : (0 : ℝ) ≤ k := Nat.cast_nonneg k
    refine hk3 _ (List.mem_singleton.mpr rfl) ⟨?_, ?_⟩ <;> push_cast <;> linarith

/-- For RunStops, the clock: a last sample that turns back so far that the observed pilot, and with it the rate, is
negative; and a cutoff of half the rate. -/
theorem witness_RunStops_clock :
    (let s := withCfg (fun c => { c with pilotFreq0 := .rat 5000000 }) ((entryState false true).setBuf BufId.cap
        (List.replicate 49 ⟨.rat 0, .rat 0⟩ ++ [⟨.rat 0, .rat (-1)⟩]))
     EntryOk s.cfg.toReal (s.buf BufId.cap).length 1
     ∧ ∃ (equi : ℝ) (obs0 : Option ℝ),
       IsStage1 s.cfg.toReal (zoneValues s.zones) (s.buf BufId.cap).length (sampleAt (s.buf BufId.cap)) equi 0 obs0 none
       ∧ IsRate s.cfg.toReal equi 0 obs0 equi 0 ∧ equi ≤ 0)
    ∧ (let s := withCfg (fun c => { c with toneCutoff := .rat 500000000 }) (entryState true true)
      EntryOk s.cfg.toReal (s.buf BufId.cap).length 1
      ∧ IsStage1 s.cfg.toReal (zoneValues s.zones) (s.buf BufId.cap).length (sampleAt (s.buf BufId.cap))
        1000000000 0 none none
      ∧ IsRate s.cfg.toReal 1000000000 0 none 1000000000 0
      ∧ (0 : ℝ) < 1000000000 ∧ (1000000000 : ℝ) / 2 ≤ s.cfg.toReal.toneCutoff) := by
  refine ⟨⟨?_, ?_⟩, ?_, ?_, ?_, by norm_num, ?_⟩
  · obtain ⟨e1, e2, ⟨o1, o2, o3, o4, o5, o6, o7, o8, o9, o10, o11, o12, o13, o14⟩, e4, e5, e6⟩ := entryOk false true
    refine ⟨e1, e2, ⟨o1, o2, o3, o4, o5, o6, o7, o8, o9, o10, o11, o12, fun _ _ => ?_,
      fun _ h => Bool.noConfusion (show true = false from h)⟩, e4, e5, e6⟩
    change (NUM.rat 5000000).toReal ≠ 0
    norm_num [NUM.toReal]
  · obtain ⟨h1, h2, h3, h4, h5, h6, h7, h8⟩ := entry_toReal false true
    obtain ⟨K, hK0, hK⟩ := residual_step
    have hp := Real.pi_pos
    have hf : (NUM.rat 5000000).toReal = 5000000 := by norm_num [NUM.toReal]
    let x : ℤ → ℂ := sampleAt (List.replicate 49 ⟨.rat 0, .rat 0⟩ ++ [⟨.rat 0, .rat (-1)⟩])
    have hr : residualOf 50 x (NUM.rat 5000000).toReal (entryState false true).cfg.toReal.adcRate 1
        (entryState false true).cfg.toReal.toneCutoff = K * (-(Real.pi / 2)) - 5000000 := by
      rw [hf, h1, h7]
      refine hK x (-(Real.pi / 2)) (by rw [abs_neg, abs_of_pos (by positivity)]) (fun n hn => ?_)
      have hxn : x n = if n = 49 then -Complex.I else 0 := by
        simp only [x, sampleAt, if_pos (Int.natCast_nonneg n), Int.toNat_natCast]
        by_cases h49 : n = 49
        · subst h49
          simp [elemValue, NUM.toReal, Complex.ext_iff]
        · rw [List.getElem?_append_left (by simp; omega), List.getElem?_replicate]
          simp [h49, elemValue, NUM.toReal, Complex.ext_iff, show n < 49 by omega]
      rw [hxn]
      split
      · rw [Complex.arg_neg_I]
      · exact Complex.arg_zero
    have hneg : 5000000 + (K * (-(Real.pi / 2)) - 5000000) < 0 := by
      have : 0 < K * (Real.pi / 2) := by positivity
      linarith
    refine ⟨1000000000 / ((5000000 + (K * (-(Real.pi / 2)) - 5000000)) / 5000000),
      some (5000000 + (K * (-(Real.pi / 2)) - 5000000)), ?_, ?_, ?_⟩
    · change (entryState false true).cfg.toReal.toneCutoff < (entryState false true).cfg.toReal.adcRate / 2
        ∧ designSum 1 (entryState false true).cfg.toReal.toneCutoff (entryState false true).cfg.toReal.adcRate ≠ 0
        ∧ (NUM.rat 5000000).toReal + residualOf 50 x (NUM.rat 5000000).toReal
          (entryState false true).cfg.toReal.adcRate 1 (entryState false true).cfg.toReal.toneCutoff ≠ 0
        ∧ _ = (entryState false true).cfg.toReal.adcRate / (((NUM.rat 5000000).toReal + residualOf 50 x
          (NUM.rat 5000000).toReal (entryState false true).cfg.toReal.adcRate 1
          (entryState false true).cfg.toReal.toneCutoff) / (NUM.rat 5000000).toReal)
        ∧ (0 : ℝ) = 0 ∧ _ = some ((NUM.rat 5000000).toReal + residualOf 50 x
          (NUM.rat 5000000).toReal (entryState false true).cfg.toReal.adcRate 1
          (entryState false true).cfg.toReal.toneCutoff) ∧ none = none
      rw [hr, hf, h1, h7, designSum_one]
      exact ⟨by norm_num, by norm_num, hneg.ne, rfl, rfl, rfl, rfl⟩
    · have hna : ¬ (0 : ℝ) < (entryState false true).cfg.toReal.abortClockThreshold := by rw [h8]; norm_num
      exact ⟨fun _ => ⟨rfl, rfl⟩, fun h => absurd h.2.1 hna⟩
    · exact div_nonpos_of_nonneg_of_nonpos (by norm_num) (div_nonpos_of_nonpos_of_nonneg hneg.le (by norm_num))
  · obtain ⟨e1, e2, ⟨o1, o2, o3, o4, o5, o6, o7, o8, o9, o10, o11, o12, o13, o14⟩, e4, e5, e6⟩ := entryOk true true
    refine ⟨e1, e2, ⟨o1, o2, o3, o4, o5, o6, o7, o8, o9, ?_, o11, o12, o13, o14⟩, e4, e5, e6⟩
    change 0 < (NUM.rat 500000000).toReal
    norm_num [NUM.toReal]
  · obtain ⟨h1, -⟩ := entry_toReal true true
    exact ⟨h1.symm, rfl, rfl, rfl⟩
  · exact ⟨fun _ => ⟨rfl, rfl⟩, fun h => Bool.noConfusion (show true = false from h.1)⟩
  · change (1000000000 : ℝ) / 2 ≤ (NUM.rat 500000000).toReal
    norm_num [NUM.toReal]


theorem cutOut_zero (b hi : ℕ) : cutOut (fun _ => 0) b hi = fun _ => 0 := by
  funext n
  simp [cutOut]

/-- Three samples have one bin, and the guard band around it excludes it. -/
theorem noPilotPair_three : NoPilotPair 3 (fun _ => 0) 1000000000 [] 5000000 := by
  refine Or.inr ⟨_, isPilot_zero 1 ⟨le_refl _, by norm_num, by simp⟩ (fun k hk h => by have := h.1; omega), ?_⟩
  rintro ⟨k, hk1, hk2, hk3⟩
  obtain rfl : k = 1 := by omega
  exact hk3 _ (List.mem_singleton.mpr rfl) ⟨by norm_num, by norm_num⟩

/-- For RunStops, the second pass of the general variant: three samples behind the sequence. -/
theorem witness_RunStops_stage2 :
    let s := withCfg (fun c => { c with beatSampleCount := 3#32 }) (entryState false false)
    let cfg := s.cfg.toReal
    let zones := zoneValues s.zones
    let N := (s.buf BufId.cap).length
    let x := sampleAt (s.buf BufId.cap)
    EntryOk cfg N 1
    ∧ IsStage1 cfg zones N x 1000000000 0 (some (1000000000 / (50 : ℕ))) (some (2 * 1000000000 / (50 : ℕ)))
    ∧ IsRate cfg 1000000000 0 (some (1000000000 / (50 : ℕ))) 1000000000 0
    ∧ (0 : ℝ) < 1000000000 ∧ cfg.toneCutoff < 1000000000 / 2 ∧ Stage2Stops cfg zones N x 1 1000000000 0 := by
  intro s cfg zones N x
  obtain ⟨h1, h2, h3, h4, h5, h6, h7, h8⟩ := entry_toReal false false
  have hx : x = fun _ => 0 := sampleAt_zeros 50
  refine ⟨?_, ?_, ⟨fun _ => ⟨rfl, rfl⟩, fun h => absurd h.2.1 ?_⟩, by norm_num, ?_, rfl, rfl, 0, ?_, show 3 ≤ 3 from le_refl 3, ?_⟩
  · obtain ⟨e1, e2, ⟨o1, o2, o3, o4, o5, o6, o7, o8, o9, o10, o11, o12, o13, o14⟩, e4, e5, e6⟩ := entryOk false false
    exact ⟨e1, e2, ⟨o1, o2, o3, o4, o5, o6, o7, o8, o9, o10, o11, o12, o13, o14⟩, e4, e5, e6⟩
  · rw [hx]
    exact stage1_zero rfl rfl h1 h4 h5
  · change ¬ (0 : ℝ) < (entryState false false).cfg.toReal.abortClockThreshold
    rw [h8]
    norm_num
  · change (entryState false false).cfg.toReal.toneCutoff < _
    rw [h7]
    norm_num
  · rw [hx]
    exact sync_zero _ _ _ 25 (by norm_num)
  · rw [hx, cutOut_zero]
    exact noPilotPair_three

/-- For RunStops, a window of the loop: three samples in the general variant. -/
theorem witness_RunStops_subframe :
    let s := withCfg (fun c => { c with symbolRate := .rat (1000000000 / 3) }) (entryState false false)
    let cfg := s.cfg.toReal
    let zones := zoneValues s.zones
    let N := (s.buf BufId.cap).length
    let x := sampleAt (s.buf BufId.cap)
    let e := 0 + s.cfg.sequenceLength.toNat * 1
    EntryOk cfg N 1
    ∧ IsStage1 cfg zones N x 1000000000 0 (some (1000000000 / (50 : ℕ))) (some (2 * 1000000000 / (50 : ℕ)))
    ∧ IsRate cfg 1000000000 0 (some (1000000000 / (50 : ℕ))) 1000000000 0
    ∧ (0 : ℝ) < 1000000000 ∧ cfg.toneCutoff < 1000000000 / 2
    ∧ ∃ fBeat : ℝ, IsStage2 cfg zones N x 1 1000000000 0 fBeat 0
      ∧ ([] : List (Subframe ℝ)).length < planCount cfg
      ∧ SubframeStops cfg zones (shiftedBy x fBeat 1000000000) e (dataEndOf cfg N e 1000000000) 1000000000 0 e .errArg := by
  intro s cfg zones N x e
  obtain ⟨h1, h2, h3, h4, h5, h6, h7, h8⟩ := entry_toReal false false
  have hx : x = fun _ => 0 := sampleAt_zeros 50
  have hr : (NUM.rat (1000000000 / 3)).toReal = 1000000000 / 3 := by norm_num [NUM.toReal]
  have hc : ⌈((1 : ℕ) : ℝ) * (1000000000 / (NUM.rat (1000000000 / 3)).toReal) - 1 / 2⌉₊ = 3 := by
    rw [hr, Nat.ceil_eq_iff] <;> norm_num
  refine ⟨?_, ?_, ⟨fun _ => ⟨rfl, rfl⟩, fun h => absurd h.2.1 ?_⟩, by norm_num, ?_, 20000000, ?_, Nat.one_pos, ?_⟩
  · obtain ⟨e1, e2, ⟨o1, o2, o3, o4, o5, o6, o7, o8, o9, o10, o11, o12, o13, o14⟩, e4, e5, e6⟩ := entryOk false false
    refine ⟨e1, e2, ⟨o1, o2, ?_, o4, o5, o6, o7, o8, o9, o10, o11, o12, o13, o14⟩, e4, e5, e6⟩
    change 0 < (NUM.rat (1000000000 / 3)).toReal
    rw [hr]
    norm_num
  · rw [hx]
    exact stage1_zero rfl rfl h1 h4 h5
  · change ¬ (0 : ℝ) < (entryState false false).cfg.toReal.abortClockThreshold
    rw [h8]
    norm_num
  · change (entryState false false).cfg.toReal.toneCutoff < _
    rw [h7]
    norm_num
  · refine ⟨0, ?_, fun h => absurd ⟨rfl, rfl, show 3 ≤ 25 by norm_num⟩ h, fun _ => ?_⟩
    · rw [hx]
      exact sync_zero _ _ _ 25 (by norm_num)
    · rw [hx, cutOut_zero]
      refine ⟨1000000000 / (25 : ℕ), 2 * 1000000000 / (25 : ℕ), isPilotPair_zero (N := 25) (by norm_num) (by norm_num), ?_,
        sync_zero _ _ _ 25 (by norm_num)⟩
      change (20000000 : ℝ) = 1000000000 / (25 : ℕ) - (entryState false false).cfg.toReal.pilotFreq0
      rw [h4]
      norm_num
  · have he : dataEndOf cfg N e 1000000000 = 28 := by
      change min 50 (25 + ⌈((1 : ℕ) : ℝ) * (1000000000 / (NUM.rat (1000000000 / 3)).toReal) - 1 / 2⌉₊) = 28
      rw [hc]
      rfl
    have hw : windowOf cfg e 28 1000000000 0 e = (25, 28) := by
      change (25, min 28 (25 + ⌈((1 : ℕ) : ℝ) * (1000000000 / (NUM.rat (1000000000 / 3)).toReal) - 1 / 2⌉₊)) = (25, 28)
      rw [hc]
      rfl
    unfold SubframeStops
    rw [he, hw, hx, shiftedBy_zero]
    simp only [cutOut_zero]
    exact ⟨by norm_num, Or.inl ⟨noPilotPair_three, trivial⟩⟩

theorem realSampleAt_zeros (N : ℕ) : realSampleAt (List.replicate N ⟨0, 0⟩) = fun _ => 0 := by
  funext i
  unfold realSampleAt
  split
  · rw [List.getElem?_replicate]
    split <;> simp [Cx.toComplex, Complex.ext_iff]
  · rfl

/-- For RunStops, the length check: more than BUF_MAX of 2·BUF_MAX symbols find a position in a window of three samples. -/
theorem witness_RunStops_length :
    let s := withCfg (fun c => { c with
      numSymbols := BitVec.ofNat 32 (2 * Config.bufMax)
      symbolRate := .rat (1000000000 * (2 * Config.bufMax) / 3) }) (entryState true true)
    let cfg := s.cfg.toReal
    let zones := zoneValues s.zones
    let N := (s.buf BufId.cap).length
    let x := sampleAt (s.buf BufId.cap)
    let e := 0 + s.cfg.sequenceLength.toNat * 1
    EntryOk cfg N 1 ∧ IsStage1 cfg zones N x 1000000000 0 none none
    ∧ IsRate cfg 1000000000 0 none 1000000000 0
    ∧ (0 : ℝ) < 1000000000 ∧ cfg.toneCutoff < 1000000000 / 2
    ∧ IsStage2 cfg zones N x 1 1000000000 0 0 0
    ∧ ∃ (cursor : ℕ → ℕ) (frames : List (Subframe ℝ)), cursor 0 = e
      ∧ (∀ (j : ℕ) (f : Subframe ℝ), frames[j]? = some f →
        IsSubframe cfg zones (shiftedBy x 0 1000000000) e (dataEndOf cfg N e 1000000000) 1000000000 0 j (cursor j)
          (cursor (j + 1)) f)
      ∧ frames.length = planCount cfg ∧ Config.bufMax < (frames.map fun f => f.y.length).sum := by
  intro s cfg zones N x e
  obtain ⟨h1, h2, h3, h4, h5, h6, h7, h8⟩ := entry_toReal true true
  have hm := Config.bufMax_ge
  have hm' := Config.bufMax_lt
  have hb : (0 : ℝ) < Config.bufMax := by exact_mod_cast (by omega : 0 < Config.bufMax)
  have hx : x = fun _ => 0 := sampleAt_zeros 50
  have hn : cfg.numSymbols.toNat = 2 * Config.bufMax := by
    change (BitVec.ofNat 32 (2 * Config.bufMax)).toNat = _
    rw [BitVec.toNat_ofNat, Nat.mod_eq_of_lt (by omega)]
  have hr : cfg.symbolRate = 1000000000 * (2 * Config.bufMax) / 3 := by
    change (NUM.rat (1000000000 * (2 * Config.bufMax) / 3)).toReal = _
    simp [NUM.toReal]
  have hsps : (1000000000 : ℝ) / cfg.symbolRate = 3 / (2 * Config.bufMax) := by
    rw [hr]
    field_simp
  have hc : ⌈((2 * Config.bufMax : ℕ) : ℝ) * (1000000000 / cfg.symbolRate) - 1 / 2⌉₊ = 3 := by
    rw [hsps, show ((2 * Config.bufMax : ℕ) : ℝ) * (3 / (2 * Config.bufMax)) = 3 by push_cast; field_simp,
      Nat.ceil_eq_iff] <;> norm_num
  have hcut : cfg.toneCutoff = 10000000 := h7
  have he : dataEndOf cfg N e 1000000000 = 28 := by
    change min 50 (25 + ⌈(cfg.numSymbols.toNat : ℝ) * (1000000000 / cfg.symbolRate) - 1 / 2⌉₊) = 28
    rw [hn, hc]
    rfl
  have hw : windowOf cfg e 28 1000000000 0 25 = (25, 28) := by
    have h0 : ⌈(0 : ℝ) - 1 / 2⌉₊ = 0 := by rw [Nat.ceil_eq_zero]; norm_num
    change (min (25 + ⌈((0 * cfg.numSymbols.toNat : ℕ) : ℝ) * (1000000000 / cfg.symbolRate) - 1 / 2⌉₊) 28,
      min 28 (min (25 + ⌈((0 * cfg.numSymbols.toNat : ℕ) : ℝ) * (1000000000 / cfg.symbolRate) - 1 / 2⌉₊) 28
        + ⌈((min cfg.numSymbols.toNat (cfg.numSymbols.toNat - 0 * cfg.numSymbols.toNat) : ℕ) : ℝ)
          * (1000000000 / cfg.symbolRate) - 1 / 2⌉₊)) = (25, 28)
    rw [Nat.zero_mul, Nat.sub_zero, Nat.min_self, Nat.cast_zero, zero_mul, h0, hn, hc]
    rfl
  let K := (positionsOf 3 0 (1000000000 / cfg.symbolRate)).card
  have hK : Config.bufMax < K := by
    have hsub : Finset.range (Config.bufMax + 1) ⊆ positionsOf 3 0 (1000000000 / cfg.symbolRate) := by
      intro k hk
      have hk' : k ≤ Config.bufMax := by
        have := Finset.mem_range.mp hk
        omega
      have hkr : (k : ℝ) ≤ Config.bufMax := by exact_mod_cast hk'
      unfold positionsOf
      rw [hsps, Finset.mem_filter, Finset.mem_range]
      constructor
      · rw [show ((3 : ℕ) : ℝ) / (3 / (2 * Config.bufMax)) = ((2 * Config.bufMax : ℕ) : ℝ) by push_cast; field_simp,
          Nat.ceil_natCast]
        omega
      · have h2 : (k : ℝ) * (3 / (2 * Config.bufMax)) ≤ 3 / 2 := by
          rw [mul_div_assoc', div_le_iff₀ (by positivity)]
          linarith
        change ⌈((0 : ℕ) : ℝ) + k * (3 / (2 * Config.bufMax)) - 1 / 2⌉ ≤ _
        rw [Int.ceil_le]
        push_cast
        linarith
    have := Finset.card_le_card hsub
    rw [Finset.card_range] at this
    exact this
  refine ⟨?_, ⟨h1.symm, rfl, rfl, rfl⟩, ⟨fun _ => ⟨rfl, rfl⟩, fun h => Bool.noConfusion (show true = false from h.1)⟩,
    by norm_num, by rw [hcut]; norm_num, ⟨0, ?_, fun _ => ⟨rfl, rfl⟩, fun h => Bool.noConfusion (show true = false from h.1)⟩,
    fun _ => 25, [⟨List.replicate K ⟨0, 0⟩, List.replicate K ⟨0, 0⟩, List.replicate 3 ⟨0, 0⟩,
      some (cfg.frequencyShift + 0 + 0)⟩], rfl, ?_, rfl, ?_⟩
  · obtain ⟨e1, e2, ⟨o1, o2, o3, o4, o5, o6, o7, o8, o9, o10, o11, o12, o13, o14⟩, e4, e5, e6⟩ := entryOk true true
    refine ⟨e1, e2, ⟨o1, o2, ?_, o4, ?_, o6, o7, o8, o9, o10, o11, o12, o13, o14⟩, e4, e5, e6⟩
    · rw [hr]
      positivity
    · intro h
      have : cfg.numSymbols.toNat = 0 := by rw [h]; rfl
      omega
  · rw [hx]
    exact sync_zero _ _ _ 25 (by norm_num)
  · intro j f hf
    obtain ⟨rfl, rfl⟩ : j = 0 ∧ f = ⟨List.replicate K ⟨0, 0⟩, List.replicate K ⟨0, 0⟩, List.replicate 3 ⟨0, 0⟩,
        some (cfg.frequencyShift + 0 + 0)⟩ := by
      cases j with
      | zero => exact ⟨rfl, by simpa using hf.symm⟩
      | succ j => simp at hf
    unfold IsSubframe
    rw [he, hw, hx, shiftedBy_zero]
    simp only [cutOut_zero]
    refine ⟨fun h => absurd h (by norm_num), fun _ => ⟨(1 : ℕ) * 1000000000 / (3 : ℕ), 0, 0, ⟨?_, rfl⟩, ?_, rfl, rfl⟩⟩
    · exact isPilot_zero 1 ⟨le_refl _, by norm_num, List.forall_mem_nil _⟩ (fun k hk h => by have := h.1; omega)
    · have hz : ∀ g : ℝ, filteredBy (1000000000 / cfg.symbolRate) cfg.rollOff cfg.symbolRate 1000000000
          (shiftedBy (fun _ => 0) g 1000000000) = fun _ => 0 := fun g => by
        rw [shiftedBy_zero]
        funext n
        simp [filteredBy]
      have hceil : ⌈(1000000000 : ℝ) / cfg.symbolRate⌉ = 1 := by
        rw [hsps, Int.ceil_eq_iff]
        have hbm : (50 : ℝ) ≤ Config.bufMax := by exact_mod_cast hm
        constructor
        · have : (0 : ℝ) < 3 / (2 * Config.bufMax) := by positivity
          push_cast
          linarith
        · rw [div_le_iff₀ (by positivity)]
          push_cast
          linarith
      unfold Machine.IsChain
      simp only [hz]
      refine ⟨?_, by simp, ?_, ⟨?_, by norm_num, ?_⟩, by simp [K], ?_, by simp, ?_⟩
      · change designSum 1 _ _ ≠ 0
        rw [designSum_one, hcut]
        norm_num
      · intro n _
        rw [realSampleAt_zeros]
        simp [toneOf]
      · rw [hceil]; norm_num
      · intro p' hp' _
        rw [hceil] at hp'
        obtain rfl : p' = 0 := by omega
        exact ⟨le_refl _, fun h => absurd h (by omega)⟩
      · intro k _
        rw [realSampleAt_zeros]
      · intro k _
        rw [realSampleAt_zeros]
        simp
  · simpa using hK

/-- Rates of 1 Hz, one symbol: the one window has a single sample, so the loop leaves it out (45_pipeline.md R213). -/
noncomputable def realCfg : CfgBank ℝ :=
  { CfgBank.reset.toReal with
    clockShared := true, loShared := true, numPilots := 1#32, numSymbols := 1#32, sequenceLength := 1#32
    adcRate := 1, symbolRate := 1, sequenceRate := 1, toneCutoff := 1 / 4 }

/-- For RunStages and RunSubframes: a RUN over the exact reals whose stages raise no error. -/
theorem witness_RunStages : ∃ o, Arith.real.run realCfg [] (List.replicate 50 ⟨0, 0⟩) = .ok o := by
  have hm : Config.maxSf ≠ 0 := by have := Config.maxSf_pos; omega
  have hn : (NUM.rat 0).toReal = 0 := by norm_num [NUM.toReal]
  have ho : Arith.real.operandsOk .ss realCfg 50 = true := by
    simp [Arith.operandsOk, Arith.rollOffOk, hn, realCfg, CfgBank.reset, CfgBank.toReal]
  have hq : Arith.real.div realCfg.adcRate realCfg.sequenceRate = 1 := by simp [realCfg]
  have hj : subframeCount realCfg = 1 := rfl
  have h1 : Arith.real.checkOperands .ss realCfg 50 = .ok 1 := by
    unfold Arith.checkOperands
    rw [ho, hq, hj]
    simp [hm, show realCfg.sequenceLength.toNat = 1 from rfl]
  have h2 : Arith.real.clockAbort .ss realCfg ⟨1, 0, none, none⟩ = .ok (⟨1, 0, none, none⟩, false) := by
    have ha : Arith.real.clockAborts .ss realCfg 1 = false := rfl
    unfold Arith.clockAbort
    simp only [ha]
    norm_num [realCfg]
  have h3 : ∀ (x : List (Cx ℝ)) (e : ℕ), Arith.real.subframes
      ⟨.ss, realCfg, [], x, e, Arith.real.dataEnd realCfg 50 e 1, 1, 0, 1⟩ 1 0 e = .ok [⟨[], [], [], none⟩] := by
    intro x e
    have hw : (Arith.real.window ⟨.ss, realCfg, [], x, e, Arith.real.dataEnd realCfg 50 e 1, 1, 0, 1⟩ 0 e).2
        - (Arith.real.window ⟨.ss, realCfg, [], x, e, Arith.real.dataEnd realCfg 50 e 1, 1, 0, 1⟩ 0 e).1 < 3 := by
      have h : Arith.real.rhd 1 = 1 := by
        simp only [Arith.rhd, Arith.real_ceil]
        norm_num
      have ha : allotted realCfg 0 = 1 := rfl
      simp only [Arith.window, ha]
      simp [h]
      omega
    simp only [Arith.subframes, Arith.subframe, if_pos hw]
  have h4 : Arith.real.stage1 .ss realCfg [] (List.replicate 50 ⟨0, 0⟩) = .ok ⟨1, 0, none, none⟩ := by
    simp [Arith.stage1, realCfg]
  have hv : variantOf realCfg.clockShared realCfg.loShared = .ss := rfl
  have hp : checkPilots .ss realCfg.numPilots.toNat = .ok () := rfl
  have hs : checkSchema realCfg.detectionSchema = .ok () := rfl
  have hl : (List.replicate 50 (⟨0, 0⟩ : Cx ℝ)).length = 50 := List.length_replicate
  have hd : Arith.real.div 1 realCfg.symbolRate = 1 := by simp [realCfg]
  unfold Arith.run
  simp only [hv, hs, hp, hl, h1, hj, bind, Except.bind, h4, h2, Arith.stage2, Arith.syncStage, hd, h3]
  exact ⟨_, rfl⟩

/-- A RUN whose stages raise no error and which recovers a symbol, without and with the debug record. -/
theorem witness_RunResult : ∀ d ∈ [false, true],
    let s := withCfg (fun c => { c with debug := d }) (entryState true true)
    (∃ o, numArith.run s.cfg s.zones (s.buf BufId.cap) = .ok o ∧ o.symbols.length = 1) ∧ s.cfg.debug = d := by
  have h : ∀ d ∈ [false, true],
      let s := withCfg (fun c => { c with debug := d }) (entryState true true)
      (match numArith.run s.cfg s.zones (s.buf BufId.cap) with
        | .ok o => o.symbols.length == 1
        | .error _ => false) = true := by
    decide +kernel
  intro d hd s
  refine ⟨?_, rfl⟩
  have := h d hd
  cases ho : numArith.run s.cfg s.zones (s.buf BufId.cap) with
  | ok o =>
    change (match numArith.run s.cfg s.zones (s.buf BufId.cap) with
      | .ok o => o.symbols.length == 1
      | .error _ => false) = true at this
    rw [ho] at this
    exact ⟨o, rfl, beq_iff_eq.mp this⟩
  | error e =>
    change (match numArith.run s.cfg s.zones (s.buf BufId.cap) with
      | .ok o => o.symbols.length == 1
      | .error _ => false) = true at this
    rw [ho] at this
    cases this

theorem witness_SubframePlan :
    let c := { CfgBank.reset with numSymbols := 1#32, processSubframes := true, subframeLength := 1#32 }
    let d := { CfgBank.reset with numSymbols := 1#32 }
    (1 ≤ c.numSymbols.toNat ∧ c.processSubframes = true ∧ 1 ≤ c.subframeLength.toNat)
    ∧ 1 ≤ d.numSymbols.toNat ∧ d.processSubframes = false := by decide

/-- The three outcomes: no positive rate, a cutoff that is half the rate, and a rate that serves, the last with
an abort and without. -/
theorem witness_ClockAbortRule :
    let thr : ℝ := 1
    let aborts := fun equi : ℝ => 0 < thr ∧ thr < |equi - 8|
    (¬ aborts 8 ∧ aborts 10) ∧ ((0 : ℝ) ≤ 0 ∧ (0 : ℝ) < 8 ∧ (8 : ℝ) / 2 ≤ 4) ∧ ((3 : ℝ) < 8 / 2) := by
  norm_num

/-- The impulses of V-SP-1. -/
def calibrated : State :=
  { withBufs [(BufId.calE, pts [0, 0, 0, 0, 0, 1, 0, 0, 0, 0, 0, 0]), (BufId.calES, pts [1, 0, 0, 0, 0, 0, 0, 0, 0, 0, 0, 0])] with
    snap := ⟨.rat 1, .rat 1, .rat (1 / 2), .rat 0, 0#32⟩ }

theorem witness_SpecialResult :
    let b := calibrated.snap.toReal
    calibrated.snap.schema = 0#32 ∧ 0 < b.symbolRate ∧ 0 < b.equiRate ∧ 0 ≤ b.rollOff ∧ b.rollOff ≤ 1
    ∧ calibrated.buf BufId.calE ≠ [] ∧ calibrated.buf BufId.calES ≠ []
    ∧ ((calibrated.buf BufId.calE).length : ℤ) ≤ posOf 0 (b.equiRate / b.symbolRate) Config.bufMax
    ∧ ((calibrated.buf BufId.calES).length : ℤ) ≤ posOf 0 (b.equiRate / b.symbolRate) Config.bufMax := by
  have hb : (50 : ℝ) ≤ Config.bufMax := by exact_mod_cast Config.bufMax_ge
  have h1 : (NUM.rat 1).toReal = 1 := by norm_num [NUM.toReal]
  have h2 : (NUM.rat (1 / 2)).toReal = 1 / 2 := by norm_num [NUM.toReal]
  have hp : ∀ n : ℕ, n ≤ 49 → (n : ℤ) ≤ posOf 0 ((NUM.rat 1).toReal / (NUM.rat 1).toReal) Config.bufMax := by
    intro n hn
    have : (n : ℝ) ≤ 49 := by exact_mod_cast hn
    unfold posOf
    rw [h1, Int.le_ceil_iff]
    push_cast
    linarith
  refine ⟨rfl, ?_, ?_, ?_, ?_, by decide, by decide, hp 12 (by norm_num), hp 12 (by norm_num)⟩
  · change 0 < (NUM.rat 1).toReal
    rw [h1]; norm_num
  · change 0 < (NUM.rat 1).toReal
    rw [h1]; norm_num
  · change 0 ≤ (NUM.rat (1 / 2)).toReal
    rw [h2]; norm_num
  · change (NUM.rat (1 / 2)).toReal ≤ 1
    rw [h2]; norm_num

/-- The arguments of the primitive commands at the values of the snapshot. -/
def chained : State := withCfg (fun c => { c with symbolRate := .rat 1, rollOff := .rat (1 / 2) })
  (withArgs 0 1 0 1 calibrated)

theorem witness_SpecialIsTheChain : ∀ src ∈ [BufId.calE, BufId.calES],
    let s := chained
    answers (exec .special s) (fun t => t.status.done) = true ∧ s.status.done = false
    ∧ s.arg.freq = s.snap.freqShift ∧ s.arg.rate = s.snap.equiRate ∧ s.arg.start = 0#32
    ∧ s.arg.factor = numArith.div s.snap.equiRate s.snap.symbolRate
    ∧ s.cfg.rollOff = s.snap.rollOff ∧ s.cfg.symbolRate = s.snap.symbolRate
    ∧ answers (exec (.fshift BufId.w0 src) s) (fun t1 =>
        answers (exec (.mfilt BufId.w1 BufId.w0) t1) (fun t2 => t2.errCode == 0#32 &&
          answers (exec (.downsample BufId.w2 BufId.w1) t2) (fun t3 => t3.errCode == 0#32))) = true := by
  decide +kernel

theorem witness_RegisterMap : (regAt 0x1000).map Reg.number = some 0x1000 ∧ regAt 0x5 = none := by decide +kernel

theorem witness_BusyRefusesHost :
    busyState.status.busy = true ∧ 4 ≤ 4 ∧ 4 < 0x10 ∧ regAt 0x10 = some .argStart ∧ regAt 5 = none := by decide +kernel

/-- A register of a table, a number that is none, the last element of a buffer, the index after it, the buffer
number 12, and a table entry (a zone register exists in the instances that have one only). -/
theorem witness_IdleReads :
    let s := withBufs [(BufId.w0, pts [7])]
    s.status.busy = false ∧ (regAt 0x2000).isSome = true ∧ regAt 0x5 = none
    ∧ (s.buf BufId.w0)[0]? = some ⟨.rat 7, .rat 0⟩ ∧ (∀ c : BufId, c.val = 3 → (s.buf c).length ≤ 1)
    ∧ (∀ c : BufId, c.val = 12 → (s.buf c).length ≤ 0) ∧ 0 < Config.maxSf := by
  decide +kernel

/-- The ends of the ranges; an exclusion-zone register in the instances that have one; the two kinds of answer. -/
theorem witness_RegisterWrite :
    State.reset.status.busy = false
    ∧ (0x10 ≤ Reg.argStart.number ∧ Reg.argGuard.number ≤ 0x15)
    ∧ (0x40 ≤ Reg.cfgSymbolRate.number ∧ Reg.cfgDebug.number ≤ 0x57)
    ∧ (∀ i : Fin Config.maxExcl, 0x100 ≤ (Reg.exclLo i).number
      ∧ (Reg.exclHi i).number < 0x100 + 2 * Config.maxExcl)
    ∧ regAt 0x5 = none
    ∧ { State.reset with answer := .word 1#32 }.answer = .word 1#32
    ∧ { State.reset with answer := .num (.rat 1) }.answer = .num (.rat 1) := by
  refine ⟨rfl, by decide, by decide, fun i => ?_, by decide +kernel, rfl, rfl⟩
  have := i.isLt
  simp only [Reg.number]
  omega

/-- Buffers 6 and 7, the greatest length of all instances, and a length of none. -/
theorem witness_LengthWrite :
    State.reset.status.busy = false ∧ BufId.w3.val ≤ 6 ∧ (50#32).toNat ≤ Config.bufMax ∧ 7 ≤ BufId.out.val
    ∧ Config.bufMax < (0x80000000#32).toNat :=
  ⟨rfl, by decide, Config.bufMax_ge, by decide, Config.bufMax_lt⟩

theorem witness_BufferWrite :
    let s := withBufs [(BufId.w3, pts [7])]
    s.status.busy = false ∧ (∃ c : BufId, c.val = 6 ∧ 6 ≤ 6 ∧ 0 < (s.buf c).length)
    ∧ (¬ ∃ c : BufId, c.val = 6 ∧ 6 ≤ 6 ∧ 1 < (s.buf c).length)
    ∧ (¬ ∃ c : BufId, c.val = 7 ∧ 7 ≤ 6 ∧ 0 < (s.buf c).length) ∧ busyState.status.busy = true := by decide +kernel

theorem witness_SlopeOfLine : ∃ x ∈ [(0 : ℝ), 1], ∃ y ∈ [(0 : ℝ), 1], x ≠ y := ⟨0, by simp, 1, by simp, by simp⟩

/-- A term of every kind but a symbol has an enclosure. -/
theorem witness_EnclosureHolds :
    (enclose (.sum (.sine (.rat 1)) (.prod (.cosine (.rat 2)) (.root (.quot .pi (.angle (.rat 1) (.rat 3))))))).isSome
      = true := by decide +kernel

end Sys2Proof.Tests.Slice0
end

section
/-! The number domain of the machine: enclosures, order and integer part against the exact reals
(00_scope.md R13; log 1, log 2). -/

namespace Sys2Proof

open Machine

/-- Enclosures are built along the term, each by the rule of its operation. -/
theorem Machine.enclose_holds (x : NUM) : ∀ e : Encl, enclose x = some e → e.Holds x.toReal := by
  induction x with
  | rat q => rintro _ ⟨⟩; exact Encl.Holds.ofRat q
  | pi => rintro _ ⟨⟩; exact Encl.Holds.pi
  | sym n => rintro _ ⟨⟩
  | sum a b iha ihb =>
    intro e h
    rw [enclose] at h
    split at h
    · cases h; exact (iha _ ‹_›).add (ihb _ ‹_›)
    · cases h
  | prod a b iha ihb =>
    intro e h
    rw [enclose] at h
    split at h
    · cases h; exact (iha _ ‹_›).mul (ihb _ ‹_›)
    · cases h
  | quot a b iha ihb =>
    intro e h
    rw [enclose] at h
    split at h
    · exact (iha _ ‹_›).div (ihb _ ‹_›) h
    · cases h
  | root a ih =>
    intro e h
    obtain ⟨x, hx, rfl⟩ := Option.map_eq_some_iff.mp h
    exact (ih x hx).sqrt
  | sine a ih =>
    intro e h
    rw [enclose] at h
    split at h
    · obtain ⟨p, hp, rfl⟩ := Option.map_eq_some_iff.mp h
      exact ((ih _ ‹_›).cosSin hp).2
    · cases h
  | cosine a ih =>
    intro e h
    rw [enclose] at h
    split at h
    · obtain ⟨p, hp, rfl⟩ := Option.map_eq_some_iff.mp h
      exact ((ih _ ‹_›).cosSin hp).1
    · cases h
  | angle y x ihy ihx =>
    intro e h
    rw [enclose] at h
    split at h
    · exact (ihy _ ‹_›).arg (ihx _ ‹_›) h
    · cases h

/-- Settles O58: every operation on enclosures holds the number of its operation on terms. -/
theorem enclosureHolds : Obligations.EnclosureHolds := enclose_holds

/-- The sign of a rational, read from its numerator, is that of its real number. -/
theorem sign_num_neg_iff (q : Rat) : q.num.sign < 0 ↔ (q : ℝ) < 0 := by
  rw [Int.sign_neg_iff, Rat.num_neg, Rat.cast_lt_zero]

/-- A sign that shows is the sign of the exact real number. -/
theorem NUM.sign_neg_iff {a : NUM} {g : ℤ} (h : a.sign = some g) : g < 0 ↔ a.toReal < 0 := by
  unfold NUM.sign at h
  split at h
  case h_1 q => cases h; exact sign_num_neg_iff q
  case h_2 q =>
    cases h
    rw [sign_num_neg_iff, NUM.toReal, NUM.toReal_rat, NUM.toReal_pi, mul_neg_iff]
    simp [Real.pi_pos, Real.pi_pos.not_gt]
  case h_3 =>
    split at h
    · cases h
    · rename_i e he
      have holds := enclose_holds _ e he
      split at h
      · cases h
        have := holds.pos_of_lo ‹_›
        exact ⟨fun h => absurd h (by decide), fun h => absurd h this.not_gt⟩
      · split at h
        · cases h
          exact ⟨fun _ => holds.neg_of_hi ‹_›, fun _ => by decide⟩
        · cases h

/-- The machine's order is the order of the exact reals (R13). -/
theorem NUM.lt_iff (a b : NUM) : NUM.lt a b = true ↔ a.toReal < b.toReal := by
  unfold NUM.lt
  split
  · simp_all
  · split
    · rename_i g hg
      rw [decide_eq_true_iff, NUM.sign_neg_iff hg, NUM.toReal_sub, sub_neg]
    · exact decide_eq_true_iff

/-- An enclosure between two integers shows the integer part. -/
theorem Machine.Encl.Holds.floor_eq {e : Encl} {x : ℝ} (h : e.Holds x)
    (hf : e.lo / encScale = e.hi / encScale) : e.lo / encScale = ⌊x⌋ := by
  have hg := gridUnit_pos
  have below : ((e.lo / encScale * encScale : ℤ) : ℝ) ≤ e.lo := by
    exact_mod_cast Int.ediv_mul_le e.lo encScale_pos.ne'
  have above : (e.hi : ℝ) < ((e.hi / encScale + 1) * encScale : ℤ) := by
    exact_mod_cast Int.lt_ediv_add_one_mul_self e.hi encScale_pos
  rw [← hf] at above
  push_cast [encScale_cast] at below above
  refine (Int.floor_eq_iff.mpr ⟨?_, ?_⟩).symm
  · exact le_of_mul_le_mul_right (below.trans h.1) hg
  · exact lt_of_mul_lt_mul_right (h.2.trans_lt above) hg.le

/-- The machine's integer part is the floor of the exact real (R13). -/
theorem NUM.floor_eq (a : NUM) : a.floor = ⌊a.toReal⌋ := by
  unfold NUM.floor
  split
  · exact (Rat.floor_cast _).symm
  · split
    · rfl
    · split
      · exact (enclose_holds _ _ ‹_›).floor_eq ‹_›
      · rfl

/-- Settles O59: the sign that a term or its enclosure shows is the sign of the difference, and an enclosure
between two integers shows the floor. -/
theorem comparisonsExact : Obligations.ComparisonsExact := ⟨NUM.lt_iff, NUM.floor_eq⟩

end Sys2Proof
end

section
/-! The numeric primitives over the exact reals: slope (R12) and unwrapping (R9). -/

namespace Sys2Proof.Machine

/-- An element of a real sequence within its length. -/
theorem Arith.real_relem (t : List ℝ) {n : ℕ} (h : n < t.length) : Arith.real.relem t n = t[n] := by
  rw [Arith.relem, List.getD_eq_getElem _ _ h]

/-- The mean of a real sequence (R7). -/
theorem Arith.real_mean (t : List ℝ) :
    Arith.real.mean t = 1 / (t.length : ℝ) * ∑ n ∈ Finset.range t.length, Arith.real.relem t n := by
  simp [Arith.mean, Arith.real_sumTo]

/-- The slope as sums over the deviations from the means (R12). -/
theorem Arith.real_slope (t y : List ℝ) :
    Arith.real.slope t y =
      (∑ n ∈ Finset.range t.length,
          (Arith.real.relem t n - Arith.real.mean t) * (Arith.real.relem y n - Arith.real.mean y))
        / ∑ n ∈ Finset.range t.length, (Arith.real.relem t n - Arith.real.mean t) ^ 2 := by
  simp [Arith.slope, Arith.real_sumTo, sq]

/-- An element of the images of a sequence under a line. -/
theorem Arith.real_relem_line (t : List ℝ) (a b : ℝ) {n : ℕ} (h : n < t.length) :
    Arith.real.relem (t.map fun x => a * x + b) n = a * Arith.real.relem t n + b := by
  rw [Arith.real_relem _ (by simpa using h), Arith.real_relem t h, List.getElem_map]

/-- The mean of the images under a line is the image of the mean. -/
theorem Arith.real_mean_line (t : List ℝ) (a b : ℝ) (h : t ≠ []) :
    Arith.real.mean (t.map fun x => a * x + b) = a * Arith.real.mean t + b := by
  have hN : (t.length : ℝ) ≠ 0 := by simpa using h
  have line : ∑ n ∈ Finset.range t.length, Arith.real.relem (t.map fun x => a * x + b) n
      = ∑ n ∈ Finset.range t.length, (a * Arith.real.relem t n + b) :=
    Finset.sum_congr rfl fun n hn => Arith.real_relem_line t a b (Finset.mem_range.mp hn)
  rw [Arith.real_mean, Arith.real_mean, List.length_map, line, Finset.sum_add_distrib, ← Finset.mul_sum,
    Finset.sum_const, Finset.card_range, nsmul_eq_mul]
  field_simp

/-- Numbers that are not all equal deviate from their mean. -/
theorem Arith.real_deviation_pos (t : List ℝ) (m : ℝ) (h : ∃ x ∈ t, ∃ y ∈ t, x ≠ y) :
    0 < ∑ n ∈ Finset.range t.length, (Arith.real.relem t n - m) ^ 2 := by
  obtain ⟨x, hx, y, hy, hxy⟩ := h
  have off : ∃ z ∈ t, z ≠ m := by
    by_cases hm : x = m
    · exact ⟨y, hy, fun h => hxy (hm.trans h.symm)⟩
    · exact ⟨x, hx, hm⟩
  obtain ⟨z, hz, hzm⟩ := off
  obtain ⟨n, hn, rfl⟩ := List.mem_iff_getElem.mp hz
  refine Finset.sum_pos' (fun _ _ => sq_nonneg _) ⟨n, Finset.mem_range.mpr hn, ?_⟩
  rw [Arith.real_relem t hn]
  exact sq_pos_iff.mpr (sub_ne_zero.mpr hzm)

/-- Settles O57: on a line every deviation of `y` is `a` times the deviation of `t`. -/
theorem slopeOfLine : Obligations.SlopeOfLine := by
  intro t a b h
  have hne : t ≠ [] := by
    obtain ⟨x, hx, -⟩ := h
    exact List.ne_nil_of_mem hx
  have deviations : ∀ n ∈ Finset.range t.length,
      (Arith.real.relem t n - Arith.real.mean t)
        * (Arith.real.relem (t.map fun x => a * x + b) n - Arith.real.mean (t.map fun x => a * x + b))
      = a * (Arith.real.relem t n - Arith.real.mean t) ^ 2 := by
    intro n hn
    rw [Arith.real_relem_line t a b (Finset.mem_range.mp hn), Arith.real_mean_line t a b hne]
    ring
  rw [Arith.real_slope, Finset.sum_congr rfl deviations, ← Finset.mul_sum,
    mul_div_cancel_right₀ _ (Arith.real_deviation_pos t _ h).ne']

end Sys2Proof.Machine
end

section
/-! The unwrapping over the exact reals (R9). -/

namespace Sys2Proof.Machine

/-- `|d| − 2π·ceil((|d| − π)/(2π))`, the size of a step of more than half a turn after the reduction by whole turns
(R9). -/
noncomputable def reducedStep (d : ℝ) : ℝ :=
  |d| - 2 * Real.pi * ⌈(|d| - Real.pi) / (2 * Real.pi)⌉

/-- The reduction leaves more than −π and at most π. -/
theorem reducedStep_mem (d : ℝ) : -Real.pi < reducedStep d ∧ reducedStep d ≤ Real.pi := by
  have hp : 0 < 2 * Real.pi := by linarith [Real.pi_pos]
  have least := Int.le_ceil ((|d| - Real.pi) / (2 * Real.pi))
  have most := Int.ceil_lt_add_one ((|d| - Real.pi) / (2 * Real.pi))
  rw [div_le_iff₀ hp] at least
  rw [← sub_lt_iff_lt_add, lt_div_iff₀ hp] at most
  constructor <;> unfold reducedStep <;> linarith

/-- A step of at most half a turn is kept (R9). -/
theorem Arith.real_wstep_small {d : ℝ} (h : |d| ≤ Real.pi) : Arith.real.wstep d = d := by
  simp [Arith.wstep, h]

/-- A forward step of more than half a turn (R9). -/
theorem Arith.real_wstep_forward {d : ℝ} (h : Real.pi < d) : Arith.real.wstep d = reducedStep d := by
  have far : ¬ |d| ≤ Real.pi := (h.trans_le (le_abs_self d)).not_ge
  simp [Arith.wstep, reducedStep, far, Real.pi_pos.trans h]

/-- A backward step of more than half a turn (R9). -/
theorem Arith.real_wstep_backward {d : ℝ} (h : d < -Real.pi) : Arith.real.wstep d = -reducedStep d := by
  have far : ¬ |d| ≤ Real.pi := ((lt_neg_of_lt_neg h).trans_le (neg_le_abs d)).not_ge
  have back : ¬ 0 < d := by linarith [Real.pi_pos]
  simp [Arith.wstep, reducedStep, far, back]

/-- A step differs from its input by whole turns, is at most half a turn, and keeps the input's sign at the two ends
(R9). -/
theorem Arith.real_wstep_spec (d : ℝ) :
    ∃ k : ℤ, Arith.real.wstep d = d - 2 * Real.pi * k ∧ |Arith.real.wstep d| ≤ Real.pi
      ∧ (0 < d → Arith.real.wstep d ≠ -Real.pi) ∧ (d < 0 → Arith.real.wstep d ≠ Real.pi) := by
  have hp := Real.pi_pos
  obtain ⟨low, high⟩ := reducedStep_mem d
  rcases le_or_gt |d| Real.pi with small | large
  · rw [Arith.real_wstep_small small]
    exact ⟨0, by simp, small, fun _ => by linarith, fun _ => by linarith⟩
  rcases lt_abs.mp large with forward | backward
  · rw [Arith.real_wstep_forward forward]
    refine ⟨_, by rw [reducedStep, abs_of_pos (hp.trans forward)], abs_le.mpr ⟨low.le, high⟩, fun _ => low.ne',
      fun _ => by linarith⟩
  · have hd : d < -Real.pi := lt_neg_of_lt_neg backward
    rw [Arith.real_wstep_backward hd]
    refine ⟨-⌈(|d| - Real.pi) / (2 * Real.pi)⌉, ?_, abs_le.mpr ⟨by linarith, by linarith⟩, fun _ => by linarith,
      fun _ => by linarith⟩
    rw [reducedStep, abs_of_neg (by linarith : d < 0)]
    push_cast
    ring

/-- Each element after an unwrapped one adds the step of R9 to it. -/
theorem Arith.real_unwrapFrom_step (p u : ℝ) (l : List ℝ) (n : ℕ) (h : n < l.length) :
    (u :: Arith.real.unwrapFrom p u l).getD (n + 1) 0
      = (u :: Arith.real.unwrapFrom p u l).getD n 0
        + Arith.real.wstep ((p :: l).getD (n + 1) 0 - (p :: l).getD n 0) := by
  induction l generalizing p u n with
  | nil => simp at h
  | cons q l ih =>
    cases n with
    | zero => simp [Arith.unwrapFrom]
    | succ n => exact ih q (u + Arith.real.wstep (q - p)) n (by simpa using h)

/-- The unwrapped sequence from element to element (R9). -/
theorem Arith.real_unwrap_step (p : List ℝ) (n : ℕ) (h : n + 1 < p.length) :
    (Arith.real.unwrap p).getD (n + 1) 0
      = (Arith.real.unwrap p).getD n 0 + Arith.real.wstep (p.getD (n + 1) 0 - p.getD n 0) := by
  cases p with
  | nil => simp at h
  | cons p l => exact Arith.real_unwrapFrom_step p p l n (by simpa using h)

theorem Arith.unwrap_head? {R : Type} (A : Arith R) (p : List R) : (A.unwrap p).head? = p.head? := by
  cases p <;> rfl

/-- Settles O36: the unwrapped sequence moves by `wstep`, whose three cases and their bounds are the lemmas above. -/
theorem unwrapSteps : Obligations.UnwrapSteps := by
  intro p
  refine ⟨Arith.real.unwrap_length p, Arith.real.unwrap_head? p, fun n hn => ?_⟩
  obtain ⟨k, turns, bound, positive, negative⟩ := Arith.real_wstep_spec (p.getD (n + 1) 0 - p.getD n 0)
  exact ⟨k, _, _, rfl, Arith.real_unwrap_step p n hn, Arith.real_wstep_small, Arith.real_wstep_forward,
    Arith.real_wstep_backward, turns, bound, positive, negative⟩

end Sys2Proof.Machine
end

section
/-! The arithmetic of the machine against that of the reals (00_scope.md R13). Each lemma says that a function over
`numArith`, read as real numbers, is the same function over `Arith.real` on the numbers of its operands: here for
the operations, the complex operations and sequences. -/

namespace Sys2Proof.Machine

/-! The operations. -/

@[simp] theorem numArith_rat_toReal (q : Rat) : (numArith.rat q).toReal = Arith.real.rat q := rfl
@[simp] theorem numArith_pi_toReal : numArith.pi.toReal = Arith.real.pi := rfl
@[simp] theorem numArith_add_toReal (a b : NUM) :
    (numArith.add a b).toReal = Arith.real.add a.toReal b.toReal := NUM.toReal_add a b
@[simp] theorem numArith_sub_toReal (a b : NUM) :
    (numArith.sub a b).toReal = Arith.real.sub a.toReal b.toReal := NUM.toReal_sub a b
@[simp] theorem numArith_mul_toReal (a b : NUM) :
    (numArith.mul a b).toReal = Arith.real.mul a.toReal b.toReal := NUM.toReal_mul a b
@[simp] theorem numArith_div_toReal (a b : NUM) :
    (numArith.div a b).toReal = Arith.real.div a.toReal b.toReal := NUM.toReal_div a b
@[simp] theorem numArith_sqrt_toReal (a : NUM) : (numArith.sqrt a).toReal = Arith.real.sqrt a.toReal :=
  NUM.toReal_sqrt a
@[simp] theorem numArith_sin_toReal (a : NUM) : (numArith.sin a).toReal = Arith.real.sin a.toReal :=
  NUM.toReal_sin a
@[simp] theorem numArith_cos_toReal (a : NUM) : (numArith.cos a).toReal = Arith.real.cos a.toReal :=
  NUM.toReal_cos a
@[simp] theorem numArith_atan2_toReal (y x : NUM) :
    (numArith.atan2 y x).toReal = Arith.real.atan2 y.toReal x.toReal := NUM.toReal_atan2 y x
@[simp] theorem numArith_lt (a b : NUM) : numArith.lt a b = Arith.real.lt a.toReal b.toReal := by
  rw [Bool.eq_iff_iff, Arith.real_lt]
  exact NUM.lt_iff a b
@[simp] theorem numArith_floor (a : NUM) : numArith.floor a = Arith.real.floor a.toReal := NUM.floor_eq a

/-! What is made of them. -/

@[simp] theorem numArith_int_toReal (n : ℤ) : (numArith.int n).toReal = Arith.real.int n := rfl
@[simp] theorem numArith_nat_toReal (n : ℕ) : (numArith.nat n).toReal = Arith.real.nat n := rfl
@[simp] theorem numArith_zero_toReal : numArith.zero.toReal = Arith.real.zero := rfl
@[simp] theorem numArith_one_toReal : numArith.one.toReal = Arith.real.one := rfl
@[simp] theorem numArith_neg_toReal (x : NUM) : (numArith.neg x).toReal = Arith.real.neg x.toReal := by
  simp [Arith.neg]
@[simp] theorem numArith_le (a b : NUM) : numArith.le a b = Arith.real.le a.toReal b.toReal := by
  simp only [Arith.le, numArith_lt]
@[simp] theorem numArith_isPos (a : NUM) : numArith.isPos a = Arith.real.isPos a.toReal := by
  simp only [Arith.isPos, numArith_lt, numArith_zero_toReal]
@[simp] theorem numArith_eq (a b : NUM) : numArith.eq a b = Arith.real.eq a.toReal b.toReal := by
  simp only [Arith.eq, numArith_lt]
@[simp] theorem numArith_abs_toReal (x : NUM) : (numArith.abs x).toReal = Arith.real.abs x.toReal := by
  simp only [Arith.abs, numArith_lt, apply_ite NUM.toReal, numArith_neg_toReal, numArith_zero_toReal]
@[simp] theorem numArith_lesser_toReal (a b : NUM) :
    (numArith.lesser a b).toReal = Arith.real.lesser a.toReal b.toReal := by
  simp only [Arith.lesser, numArith_lt, apply_ite NUM.toReal]
@[simp] theorem numArith_greater_toReal (a b : NUM) :
    (numArith.greater a b).toReal = Arith.real.greater a.toReal b.toReal := by
  simp only [Arith.greater, numArith_lt, apply_ite NUM.toReal]
@[simp] theorem numArith_ceil (x : NUM) : numArith.ceil x = Arith.real.ceil x.toReal := by
  simp only [Arith.ceil, numArith_floor, numArith_neg_toReal]
@[simp] theorem numArith_rhd (x : NUM) : numArith.rhd x = Arith.real.rhd x.toReal := by
  simp only [Arith.rhd, numArith_ceil, numArith_sub_toReal, numArith_rat_toReal]
@[simp] theorem numArith_twoPi_toReal : numArith.twoPi.toReal = Arith.real.twoPi := by
  simp only [Arith.twoPi, numArith_mul_toReal, numArith_rat_toReal, numArith_pi_toReal]

@[simp] theorem numArith_sumTo_toReal (f : ℕ → NUM) (n : ℕ) :
    (numArith.sumTo f n).toReal = Arith.real.sumTo (fun k => (f k).toReal) n := by
  induction n with
  | zero => rfl
  | succ n ih => rw [Arith.sumTo, Arith.sumTo, numArith_add_toReal, ih]

/-! Complex numbers. -/

@[simp] theorem Cx.toReal_re (z : Cx NUM) : z.toReal.re = z.re.toReal := rfl
@[simp] theorem Cx.toReal_im (z : Cx NUM) : z.toReal.im = z.im.toReal := rfl
@[simp] theorem Cx.toReal_mk (a b : NUM) : Cx.toReal ⟨a, b⟩ = ⟨a.toReal, b.toReal⟩ := rfl

@[simp] theorem numArith_czero_toReal : numArith.czero.toReal = Arith.real.czero := rfl
@[simp] theorem numArith_ofReal_toReal (x : NUM) : (numArith.ofReal x).toReal = Arith.real.ofReal x.toReal := rfl
@[simp] theorem numArith_cadd_toReal (x y : Cx NUM) :
    (numArith.cadd x y).toReal = Arith.real.cadd x.toReal y.toReal := by
  simp [Arith.cadd]
@[simp] theorem numArith_csub_toReal (x y : Cx NUM) :
    (numArith.csub x y).toReal = Arith.real.csub x.toReal y.toReal := by
  simp [Arith.csub]
@[simp] theorem numArith_cmul_toReal (x y : Cx NUM) :
    (numArith.cmul x y).toReal = Arith.real.cmul x.toReal y.toReal := by
  simp [Arith.cmul]
@[simp] theorem numArith_conj_toReal (x : Cx NUM) : (numArith.conj x).toReal = Arith.real.conj x.toReal := by
  simp [Arith.conj]
@[simp] theorem numArith_cscale_toReal (a : NUM) (x : Cx NUM) :
    (numArith.cscale a x).toReal = Arith.real.cscale a.toReal x.toReal := by
  simp [Arith.cscale]
@[simp] theorem numArith_normSq_toReal (x : Cx NUM) :
    (numArith.normSq x).toReal = Arith.real.normSq x.toReal := by
  simp only [Arith.normSq, numArith_add_toReal, numArith_mul_toReal, Cx.toReal_re, Cx.toReal_im]
@[simp] theorem numArith_cabs_toReal (x : Cx NUM) : (numArith.cabs x).toReal = Arith.real.cabs x.toReal := by
  simp only [Arith.cabs, numArith_sqrt_toReal, numArith_normSq_toReal]
@[simp] theorem numArith_angle_toReal (z : Cx NUM) : (numArith.angle z).toReal = Arith.real.angle z.toReal := by
  simp [Arith.angle, apply_ite NUM.toReal]
@[simp] theorem numArith_cis_toReal (t : NUM) : (numArith.cis t).toReal = Arith.real.cis t.toReal := by
  simp [Arith.cis]

@[simp] theorem numArith_csumTo_toReal (f : ℕ → Cx NUM) (n : ℕ) :
    (numArith.csumTo f n).toReal = Arith.real.csumTo (fun k => (f k).toReal) n := by
  induction n with
  | zero => rfl
  | succ n ih => rw [Arith.csumTo, Arith.csumTo, numArith_cadd_toReal, ih]

/-! Sequences. -/

@[simp] theorem valuesOf_length (x : List (Cx NUM)) : (valuesOf x).length = x.length := List.length_map _
@[simp] theorem valuesOf_isEmpty (x : List (Cx NUM)) : (valuesOf x).isEmpty = x.isEmpty := List.isEmpty_map
@[simp] theorem valuesOf_map {α : Type} (f : α → Cx NUM) (l : List α) :
    valuesOf (l.map f) = l.map fun a => (f a).toReal := List.map_map

/-- Cutting a sequence commutes with reading its elements. -/
theorem map_slice {α β : Type} (f : α → β) (x : List α) (lo hi : ℕ) :
    (slice x lo hi).map f = slice (x.map f) lo hi := by
  simp only [slice, List.map_take, List.map_drop]

@[simp] theorem valuesOf_slice (x : List (Cx NUM)) (lo hi : ℕ) :
    valuesOf (slice x lo hi) = slice (valuesOf x) lo hi := map_slice _ x lo hi

@[simp] theorem numArith_elem_toReal (x : List (Cx NUM)) (n : ℕ) :
    (numArith.elem x n).toReal = Arith.real.elem (valuesOf x) n := (List.getD_map x numArith.czero Cx.toReal).symm
@[simp] theorem numArith_relem_toReal (x : List NUM) (n : ℕ) :
    (numArith.relem x n).toReal = Arith.real.relem (x.map NUM.toReal) n :=
  (List.getD_map x numArith.zero NUM.toReal).symm
@[simp] theorem numArith_elemAt_toReal (x : List (Cx NUM)) (n : ℤ) :
    (numArith.elemAt x n).toReal = Arith.real.elemAt (valuesOf x) n := by
  simp only [Arith.elemAt, apply_ite Cx.toReal, numArith_elem_toReal, numArith_czero_toReal]
@[simp] theorem numArith_ofReals_values (x : List NUM) :
    valuesOf (numArith.ofReals x) = Arith.real.ofReals (x.map NUM.toReal) := by
  simp [Arith.ofReals]

/-- A list of (index, value) pairs with the values read as real numbers. -/
noncomputable def scoreValues (l : List (ℕ × NUM)) : List (ℕ × ℝ) := l.map fun c => (c.1, c.2.toReal)

theorem numArith_bestFrom (j : ℕ) (v : NUM) (l : List (ℕ × NUM)) :
    numArith.bestFrom j v l = Arith.real.bestFrom j v.toReal (scoreValues l) := by
  induction l generalizing j v with
  | nil => rfl
  | cons c l ih => simp only [Arith.bestFrom, scoreValues, List.map_cons, numArith_lt, ih]

/-- The first maximum over the terms is that over their real numbers (R6). -/
@[simp] theorem numArith_argmaxFirst (l : List (ℕ × NUM)) :
    numArith.argmaxFirst l = Arith.real.argmaxFirst (scoreValues l) := by
  cases l with
  | nil => rfl
  | cons c l => exact congrArg some (numArith_bestFrom c.1 c.2 l)

@[simp] theorem scoreValues_map {α : Type} (f : α → ℕ × NUM) (l : List α) :
    scoreValues (l.map f) = l.map fun a => ((f a).1, (f a).2.toReal) := List.map_map

theorem scoreValues_filterMap {α : Type} (f : α → Option (ℕ × NUM)) (l : List α) :
    scoreValues (l.filterMap f) = l.filterMap fun a => (f a).map fun c => (c.1, c.2.toReal) :=
  List.map_filterMap

/-! The numeric primitives (00_scope.md section 7). -/

@[simp] theorem numArith_mean_toReal (x : List NUM) :
    (numArith.mean x).toReal = Arith.real.mean (x.map NUM.toReal) := by
  simp [Arith.mean]
@[simp] theorem numArith_cmean_toReal (z : List (Cx NUM)) :
    (numArith.cmean z).toReal = Arith.real.cmean (valuesOf z) := by
  simp [Arith.cmean]
@[simp] theorem numArith_var_toReal (z : List (Cx NUM)) :
    (numArith.var z).toReal = Arith.real.var (valuesOf z) := by
  simp [Arith.var]
@[simp] theorem numArith_wstep_toReal (d : NUM) : (numArith.wstep d).toReal = Arith.real.wstep d.toReal := by
  simp [Arith.wstep, apply_ite NUM.toReal]
theorem numArith_unwrapFrom_toReal (p u : NUM) (l : List NUM) :
    (numArith.unwrapFrom p u l).map NUM.toReal
      = Arith.real.unwrapFrom p.toReal u.toReal (l.map NUM.toReal) := by
  induction l generalizing p u with
  | nil => rfl
  | cons q l ih =>
    simp only [Arith.unwrapFrom, List.map_cons, ih, numArith_add_toReal, numArith_wstep_toReal, numArith_sub_toReal]
@[simp] theorem numArith_unwrap_toReal (l : List NUM) :
    (numArith.unwrap l).map NUM.toReal = Arith.real.unwrap (l.map NUM.toReal) := by
  cases l with
  | nil => rfl
  | cons p l => exact congrArg (p.toReal :: ·) (numArith_unwrapFrom_toReal p p l)
@[simp] theorem numArith_convSame_values (x h : List (Cx NUM)) :
    valuesOf (numArith.convSame x h) = Arith.real.convSame (valuesOf x) (valuesOf h) := by
  simp [Arith.convSame]
@[simp] theorem numArith_dftBin_toReal (x : List (Cx NUM)) (k : ℕ) :
    (numArith.dftBin x k).toReal = Arith.real.dftBin (valuesOf x) k := by
  simp [Arith.dftBin]
@[simp] theorem numArith_binFreq_toReal (rate : NUM) (N k : ℕ) :
    (numArith.binFreq rate N k).toReal = Arith.real.binFreq rate.toReal N k := by
  simp [Arith.binFreq]
@[simp] theorem numArith_slope_toReal (t y : List NUM) :
    (numArith.slope t y).toReal = Arith.real.slope (t.map NUM.toReal) (y.map NUM.toReal) := by
  simp [Arith.slope]
/-- Repeating in place commutes with reading the elements (R16). -/
theorem map_repeatEach {α β : Type} (f : α → β) (a : List α) (q : ℕ) :
    (repeatEach a q).map f = repeatEach (a.map f) q := by
  simp [repeatEach, List.map_flatMap, List.flatMap_map]

end Sys2Proof.Machine
end

section
/-! The rules of the commands on the machine's terms against the same rules on the reals (00_scope.md R13):
resampler, correlator, pilot tone, phase corrector and filter. -/

namespace Sys2Proof.Machine

/-! Results with errors. -/

/-- A result `x` whose reading is `x'`, followed by a step whose reading is the step on what `x` reads as: the whole
reads as `x'` followed by that step. -/
theorem Except.map_bind_of_map {ε α α' β β' : Type} {f : α → α'} {k : β → β'} {x : Except ε α} {x' : Except ε α'}
    {g : α → Except ε β} {g' : α' → Except ε β'} (hx : x.map f = x') (hg : ∀ a, (g a).map k = g' (f a)) :
    (x >>= g).map k = x' >>= g' := by
  subst hx
  cases x with
  | error e => rfl
  | ok a => exact hg a

/-- A first step that reads as itself. -/
theorem Except.map_bind_same {ε α β β' : Type} {k : β → β'} {x : Except ε α} {g : α → Except ε β}
    {g' : α → Except ε β'} (hg : ∀ a, (g a).map k = g' a) : (x >>= g).map k = x >>= g' := by
  cases x with
  | error e => rfl
  | ok a => exact hg a

@[simp] theorem Except.mapped_error {ε α α' : Type} (f : α → α') (e : ε) : (Except.error e).map f = .error e := rfl
@[simp] theorem Except.mapped_ok {ε α α' : Type} (f : α → α') (a : α) :
    (Except.ok a : Except ε α).map f = .ok (f a) := rfl

/-! The resampler (R102, R105). -/

@[simp] theorem numArith_pos (start : ℕ) (f : NUM) (k : ℕ) :
    numArith.pos start f k = Arith.real.pos start f.toReal k := by
  simp [Arith.pos]
@[simp] theorem numArith_downsampleLen (n start : ℕ) (f : NUM) :
    numArith.downsampleLen n start f = Arith.real.downsampleLen n start f.toReal := by
  simp [Arith.downsampleLen]

theorem numArith_downsample {α : Type} (zero : α) (d : List α) (start : ℕ) (f : NUM) :
    numArith.downsample zero d start f = Arith.real.downsample zero d start f.toReal := by
  simp only [Arith.downsample, numArith_downsampleLen, numArith_pos]

/-- Downsampling picks elements, so it commutes with reading them (R102). -/
theorem Arith.map_downsample {R α β : Type} (A : Arith R) (g : α → β) (zero : α) (d : List α) (start : ℕ) (f : R) :
    (A.downsample zero d start f).map g = A.downsample (g zero) (d.map g) start f := by
  simp only [Arith.downsample, List.map_map, List.length_map, Function.comp_def, List.getD_map]

@[simp] theorem numArith_downsample_values (d : List (Cx NUM)) (start : ℕ) (f : NUM) :
    valuesOf (numArith.downsample numArith.czero d start f)
      = Arith.real.downsample Arith.real.czero (valuesOf d) start f.toReal := by
  rw [numArith_downsample]
  exact Arith.real.map_downsample Cx.toReal numArith.czero d start f.toReal
@[simp] theorem numArith_downsample_toReal (d : List NUM) (start : ℕ) (f : NUM) :
    (numArith.downsample numArith.zero d start f).map NUM.toReal
      = Arith.real.downsample Arith.real.zero (d.map NUM.toReal) start f.toReal := by
  rw [numArith_downsample]
  exact Arith.real.map_downsample NUM.toReal numArith.zero d start f.toReal

@[simp] theorem numArith_candidates (d : List (Cx NUM)) (f : NUM) :
    scoreValues (numArith.candidates d f) = Arith.real.candidates (valuesOf d) f.toReal := by
  have empty : ∀ p, (numArith.downsample numArith.czero d p f).isEmpty
      = (Arith.real.downsample Arith.real.czero (valuesOf d) p f.toReal).isEmpty := fun p => by
    rw [← valuesOf_isEmpty, numArith_downsample_values]
  simp only [Arith.candidates, scoreValues_filterMap, numArith_ceil, empty, apply_ite (Option.map _), Option.map_none,
    Option.map_some, numArith_var_toReal, numArith_downsample_values]

theorem numArith_bestpoint (d : List (Cx NUM)) (f : NUM) :
    numArith.bestpoint d f = Arith.real.bestpoint (valuesOf d) f.toReal := by
  simp only [Arith.bestpoint, numArith_argmaxFirst, numArith_candidates]

/-! The sequence correlator (R122 to R127). -/

@[simp] theorem numArith_zc_values (u L : ℕ) : valuesOf (numArith.zc u L) = Arith.real.zc u L := by
  simp [Arith.zc]
@[simp] theorem numArith_reference_values (u L q : ℕ) :
    valuesOf (numArith.reference u L q) = Arith.real.reference u L q := by
  rw [Arith.reference, Arith.reference, ← numArith_zc_values]
  exact map_repeatEach Cx.toReal (numArith.zc u L) q
@[simp] theorem numArith_rolling_toReal (x : List (Cx NUM)) (W j : ℕ) :
    (numArith.rolling x W j).toReal = Arith.real.rolling (valuesOf x) W j := by
  simp [Arith.rolling]
@[simp] theorem numArith_coarse (x : List (Cx NUM)) : numArith.coarse x = Arith.real.coarse (valuesOf x) := by
  simp [Arith.coarse]
@[simp] theorem numArith_correlation_toReal (w r : List (Cx NUM)) (l : ℕ) :
    (numArith.correlation w r l).toReal = Arith.real.correlation (valuesOf w) (valuesOf r) l := by
  simp [Arith.correlation]

theorem numArith_sync (x : List (Cx NUM)) (u L q : ℕ) :
    numArith.sync x u L q = Arith.real.sync (valuesOf x) u L q := by
  simp [Arith.sync]

/-! The pilot-tone extractor (R141 to R151). -/

@[simp] theorem numArith_excluded (zones : List (NUM × NUM)) (f : NUM) :
    numArith.excluded zones f = Arith.real.excluded (zoneValues zones) f.toReal := by
  simp only [Arith.excluded, zoneValues, List.any_map, Function.comp_def, numArith_le]
@[simp] theorem numArith_pilotBins (x : List (Cx NUM)) (rate : NUM) (zones : List (NUM × NUM)) :
    scoreValues (numArith.pilotBins x rate zones)
      = Arith.real.pilotBins (valuesOf x) rate.toReal (zoneValues zones) := by
  simp [Arith.pilotBins, scoreValues_filterMap, apply_ite (Option.map _)]

theorem numArith_find1 (x : List (Cx NUM)) (rate : NUM) (zones : List (NUM × NUM)) :
    (numArith.find1 x rate zones).map NUM.toReal
      = Arith.real.find1 (valuesOf x) rate.toReal (zoneValues zones) := by
  rw [Arith.find1, Arith.find1, numArith_argmaxFirst, numArith_pilotBins]
  cases Arith.real.argmaxFirst (Arith.real.pilotBins (valuesOf x) rate.toReal (zoneValues zones)) with
  | none => rfl
  | some k => simp

/-- The zones with the guard band around the first pilot (R145). -/
theorem zoneValues_guard (fa G : NUM) (zones : List (NUM × NUM)) :
    zoneValues ((numArith.sub fa G, numArith.add fa G) :: zones)
      = (Arith.real.sub fa.toReal G.toReal, Arith.real.add fa.toReal G.toReal) :: zoneValues zones := by
  simp [zoneValues]

/-- `find2` as two searches in a row (R145). -/
theorem Arith.find2_eq_bind {R : Type} (A : Arith R) (x : List (Cx R)) (rate : R) (zones : List (R × R)) (G : R) :
    A.find2 x rate zones G = A.find1 x rate zones >>= fun fa =>
      A.find1 x rate ((A.sub fa G, A.add fa G) :: zones) >>= fun fb => .ok (A.lesser fa fb, A.greater fa fb) := by
  unfold Arith.find2
  cases A.find1 x rate zones with
  | error e => rfl
  | ok fa =>
    dsimp only [bind, Except.bind]
    cases A.find1 x rate ((A.sub fa G, A.add fa G) :: zones) <;> rfl

theorem numArith_find2 (x : List (Cx NUM)) (rate : NUM) (zones : List (NUM × NUM)) (G : NUM) :
    (numArith.find2 x rate zones G).map (fun f => (f.1.toReal, f.2.toReal))
      = Arith.real.find2 (valuesOf x) rate.toReal (zoneValues zones) G.toReal := by
  rw [Arith.find2_eq_bind, Arith.find2_eq_bind]
  refine Except.map_bind_of_map (numArith_find1 x rate zones) fun fa => ?_
  rw [← zoneValues_guard]
  refine Except.map_bind_of_map (numArith_find1 x rate _) fun fb => ?_
  simp

@[simp] theorem numArith_sinc_toReal (t : NUM) : (numArith.sinc t).toReal = Arith.real.sinc t.toReal := by
  simp [Arith.sinc, apply_ite NUM.toReal]
@[simp] theorem numArith_hamming_toReal (T n : ℕ) : (numArith.hamming T n).toReal = Arith.real.hamming T n := by
  simp [Arith.hamming, apply_ite NUM.toReal]
@[simp] theorem numArith_lowpassTap_toReal (T : ℕ) (fc fs : NUM) (n : ℕ) :
    (numArith.lowpassTap T fc fs n).toReal = Arith.real.lowpassTap T fc.toReal fs.toReal n := by
  simp [Arith.lowpassTap]

theorem numArith_lowpass (T : ℕ) (fc fs : NUM) :
    (numArith.lowpass T fc fs).map (List.map NUM.toReal) = Arith.real.lowpass T fc.toReal fs.toReal := by
  simp [Arith.lowpass, apply_ite (Except.map _), Function.comp_def]

@[simp] theorem numArith_toneTaps_values (lp : List NUM) (f0 fs : NUM) :
    valuesOf (numArith.toneTaps lp f0 fs) = Arith.real.toneTaps (lp.map NUM.toReal) f0.toReal fs.toReal := by
  simp [Arith.toneTaps]

/-- `tone` as a check followed by the design and the convolution (R147). -/
theorem Arith.tone_eq_bind {R : Type} (A : Arith R) (x : List (Cx R)) (f0 fs : R) (T : ℕ) (fc : R) :
    A.tone x f0 fs T fc =
      if T == 0 || !A.isPos fs || !A.cutoffOk fc fs then .error .errArg
      else A.lowpass T fc fs >>= fun lp => .ok (A.convSame x (A.toneTaps lp f0 fs)) := by
  unfold Arith.tone Arith.cutoffOk
  cases A.lowpass T fc fs <;> rfl

@[simp] theorem numArith_cutoffOk (fc fs : NUM) :
    numArith.cutoffOk fc fs = Arith.real.cutoffOk fc.toReal fs.toReal := by
  simp [Arith.cutoffOk]

theorem numArith_tone (x : List (Cx NUM)) (f0 fs : NUM) (T : ℕ) (fc : NUM) :
    (numArith.tone x f0 fs T fc).map valuesOf
      = Arith.real.tone (valuesOf x) f0.toReal fs.toReal T fc.toReal := by
  rw [Arith.tone_eq_bind, Arith.tone_eq_bind, apply_ite (Except.map valuesOf), numArith_isPos, numArith_cutoffOk]
  congr 1
  exact Except.map_bind_of_map (numArith_lowpass T fc fs) fun lp => by simp

@[simp] theorem numArith_phasediff_toReal (t : List (Cx NUM)) (f fs : NUM) :
    (numArith.phasediff t f fs).map NUM.toReal
      = Arith.real.phasediff (valuesOf t) f.toReal fs.toReal := by
  simp [Arith.phasediff, Function.comp_def]

/-- The frequency residual of a tone (R151). -/
def Arith.residual {R : Type} (A : Arith R) (t : List (Cx R)) (N : ℕ) (f fs : R) : R :=
  A.div (A.slope ((List.range N).map fun n => A.div (A.nat n) fs) (A.phasediff t f fs)) A.twoPi

@[simp] theorem numArith_residual_toReal (t : List (Cx NUM)) (N : ℕ) (f fs : NUM) :
    (numArith.residual t N f fs).toReal = Arith.real.residual (valuesOf t) N f.toReal fs.toReal := by
  simp [Arith.residual, Function.comp_def]

/-- `eqrate` as its checks, the tone and the residual (R151). -/
theorem Arith.eqrate_eq_bind {R : Type} (A : Arith R) (x : List (Cx R)) (f fs : R) (T : ℕ) (fc : R) :
    A.eqrate x f fs T fc =
      if decide (x.length < 2) || A.eq f A.zero then .error .errArg
      else A.tone x f fs T fc >>= fun t =>
        if A.eq (A.add f (A.residual t x.length f fs)) A.zero then .error .errNumeric
        else .ok (A.div fs (A.div (A.add f (A.residual t x.length f fs)) f), A.residual t x.length f fs) := by
  unfold Arith.eqrate Arith.residual
  cases A.tone x f fs T fc <;> rfl

theorem numArith_eqrate (x : List (Cx NUM)) (f fs : NUM) (T : ℕ) (fc : NUM) :
    (numArith.eqrate x f fs T fc).map (fun r => (r.1.toReal, r.2.toReal))
      = Arith.real.eqrate (valuesOf x) f.toReal fs.toReal T fc.toReal := by
  rw [Arith.eqrate_eq_bind, Arith.eqrate_eq_bind, apply_ite (Except.map _), numArith_eq, valuesOf_length,
    numArith_zero_toReal]
  congr 1
  refine Except.map_bind_of_map (numArith_tone x f fs T fc) fun t => ?_
  simp [apply_ite (Except.map _)]

/-! The phase corrector (R172 to R175). -/

@[simp] theorem numArith_smooth_toReal (φ : List NUM) (W : ℕ) :
    (numArith.smooth φ W).map NUM.toReal = Arith.real.smooth (φ.map NUM.toReal) W := by
  simp [Arith.smooth, apply_ite (List.map NUM.toReal), Function.comp_def, map_slice]
@[simp] theorem numArith_phnoise_toReal (t : List (Cx NUM)) (f fs : NUM) (W : ℕ) :
    (numArith.phnoise t f fs W).map NUM.toReal
      = Arith.real.phnoise (valuesOf t) f.toReal fs.toReal W := by
  simp only [Arith.phnoise, numArith_smooth_toReal, numArith_phasediff_toReal]

theorem numArith_phcorr (y : List (Cx NUM)) (φ : List NUM) (start : ℕ) (f : NUM) :
    (numArith.phcorr y φ start f).map valuesOf
      = Arith.real.phcorr (valuesOf y) (φ.map NUM.toReal) start f.toReal := by
  simp [Arith.phcorr, apply_ite (Except.map _)]

/-! The de-shift and the matched filter (R185 to R191). -/

@[simp] theorem numArith_fshift_values (x : List (Cx NUM)) (f fs : NUM) :
    valuesOf (numArith.fshift x f fs) = Arith.real.fshift (valuesOf x) f.toReal fs.toReal := by
  simp [Arith.fshift]
@[simp] theorem numArith_filterTaps (sps : NUM) : numArith.filterTaps sps = Arith.real.filterTaps sps.toReal := by
  simp [Arith.filterTaps]
@[simp] theorem numArith_rrcPeak_toReal (β : NUM) : (numArith.rrcPeak β).toReal = Arith.real.rrcPeak β.toReal := by
  simp [Arith.rrcPeak]
@[simp] theorem numArith_rrcSpecial_toReal (β : NUM) :
    (numArith.rrcSpecial β).toReal = Arith.real.rrcSpecial β.toReal := by
  simp [Arith.rrcSpecial]
@[simp] theorem numArith_rrcPlain_toReal (β u : NUM) :
    (numArith.rrcPlain β u).toReal = Arith.real.rrcPlain β.toReal u.toReal := by
  simp [Arith.rrcPlain]
@[simp] theorem numArith_rrcAt_toReal (β u : NUM) :
    (numArith.rrcAt β u).toReal = Arith.real.rrcAt β.toReal u.toReal := by
  simp [Arith.rrcAt, apply_ite NUM.toReal]
@[simp] theorem numArith_rrc_toReal (T : ℕ) (β Ts fs : NUM) :
    (numArith.rrc T β Ts fs).map NUM.toReal = Arith.real.rrc T β.toReal Ts.toReal fs.toReal := by
  simp [Arith.rrc, Function.comp_def]

/-- Scaling every element of a sequence. -/
theorem valuesOf_map_cscale (a : NUM) (x : List (Cx NUM)) :
    valuesOf (x.map (numArith.cscale a)) = (valuesOf x).map (Arith.real.cscale a.toReal) := by
  simp only [valuesOf, List.map_map, Function.comp_def, numArith_cscale_toReal]

@[simp] theorem numArith_mfilt_values (x : List (Cx NUM)) (sps β Rs fs : NUM) :
    valuesOf (numArith.mfilt x sps β Rs fs)
      = Arith.real.mfilt (valuesOf x) sps.toReal β.toReal Rs.toReal fs.toReal := by
  simp only [Arith.mfilt, valuesOf_map_cscale, numArith_convSame_values, numArith_ofReals_values,
    numArith_rrc_toReal, numArith_filterTaps, numArith_div_toReal, numArith_sqrt_toReal, numArith_one_toReal]
@[simp] theorem numArith_rollOffOk (β : NUM) : numArith.rollOffOk β = Arith.real.rollOffOk β.toReal := by
  simp only [Arith.rollOffOk, numArith_le, numArith_zero_toReal, numArith_one_toReal]

end Sys2Proof.Machine
end

section
/-! RUN and SPECIAL on the machine's terms against RUN and SPECIAL on the reals (00_scope.md R13). -/

namespace Sys2Proof.Machine

/-! Checks of RUN (R203 to R205, R211, R212). -/

@[simp] theorem subframeSymbols_toReal (cfg : CfgBank NUM) : subframeSymbols cfg.toReal = subframeSymbols cfg := rfl
@[simp] theorem subframeCount_toReal (cfg : CfgBank NUM) : subframeCount cfg.toReal = subframeCount cfg := rfl
@[simp] theorem allotted_toReal (cfg : CfgBank NUM) (j : ℕ) : allotted cfg.toReal j = allotted cfg j := rfl

@[simp] theorem numArith_operandsOk (v : Variant) (cfg : CfgBank NUM) (N : ℕ) :
    numArith.operandsOk v cfg N = Arith.real.operandsOk v cfg.toReal N := by
  simp only [Arith.operandsOk, CfgBank.toReal, numArith_isPos, numArith_rollOffOk, numArith_le, numArith_eq,
    numArith_lt, numArith_zero_toReal]
  cases v <;> rfl

@[simp] theorem numArith_checkOperands (v : Variant) (cfg : CfgBank NUM) (N : ℕ) :
    numArith.checkOperands v cfg N = Arith.real.checkOperands v cfg.toReal N := by
  simp only [Arith.checkOperands, numArith_operandsOk, subframeCount_toReal, numArith_eq, numArith_lt, numArith_floor,
    numArith_int_toReal, numArith_div_toReal, numArith_one_toReal]
  rfl

/-! Clock and beat (R206, R207). -/

/-- What stage 1 finds, as real numbers. -/
noncomputable def Stage1.toReal (st : Stage1 NUM) : Stage1 ℝ :=
  ⟨st.equi.toReal, st.fBeat.toReal, st.obs0.map NUM.toReal, st.obs1.map NUM.toReal⟩

/-- Stage 1 with its estimations as first steps (R206). -/
theorem Arith.stage1_eq_bind {R : Type} (A : Arith R) (v : Variant) (cfg : CfgBank R) (zones : List (R × R))
    (cap : List (Cx R)) :
    A.stage1 v cfg zones cap =
      match v with
      | .ss => .ok ⟨cfg.adcRate, A.zero, none, none⟩
      | .su => A.find1 cap cfg.adcRate zones >>= fun f => .ok ⟨cfg.adcRate, A.sub f cfg.pilotFreq0, some f, none⟩
      | .us => A.eqrate cap cfg.pilotFreq0 cfg.adcRate cfg.firSize.toNat cfg.toneCutoff >>= fun r =>
        .ok ⟨r.1, A.zero, some (A.add cfg.pilotFreq0 r.2), none⟩
      | .uu => A.find2 cap cfg.adcRate zones (A.rat Config.guardBand) >>= fun f =>
        let equi := A.div (A.mul cfg.adcRate (A.sub cfg.pilotFreq1 cfg.pilotFreq0)) (A.sub f.2 f.1)
        .ok ⟨equi, A.sub (A.div (A.mul f.1 equi) cfg.adcRate) cfg.pilotFreq0, some f.1, some f.2⟩ := by
  cases v with
  | ss => rfl
  | su => unfold Arith.stage1; cases A.find1 cap cfg.adcRate zones <;> rfl
  | us =>
    unfold Arith.stage1
    cases A.eqrate cap cfg.pilotFreq0 cfg.adcRate cfg.firSize.toNat cfg.toneCutoff <;> rfl
  | uu => unfold Arith.stage1; cases A.find2 cap cfg.adcRate zones (A.rat Config.guardBand) <;> rfl

theorem numArith_stage1 (v : Variant) (cfg : CfgBank NUM) (zones : List (NUM × NUM)) (cap : List (Cx NUM)) :
    (numArith.stage1 v cfg zones cap).map Stage1.toReal
      = Arith.real.stage1 v cfg.toReal (zoneValues zones) (valuesOf cap) := by
  rw [Arith.stage1_eq_bind, Arith.stage1_eq_bind]
  cases v with
  | ss => rfl
  | su =>
    exact Except.map_bind_of_map (numArith_find1 cap cfg.adcRate zones) fun f => by
      simp [Stage1.toReal, CfgBank.toReal]
  | us =>
    exact Except.map_bind_of_map (numArith_eqrate cap cfg.pilotFreq0 cfg.adcRate _ cfg.toneCutoff) fun r => by
      simp [Stage1.toReal, CfgBank.toReal]
  | uu =>
    exact Except.map_bind_of_map (numArith_find2 cap cfg.adcRate zones (numArith.rat Config.guardBand)) fun f => by
      simp [Stage1.toReal, CfgBank.toReal]

@[simp] theorem numArith_clockAborts (v : Variant) (cfg : CfgBank NUM) (equi : NUM) :
    numArith.clockAborts v cfg equi = Arith.real.clockAborts v cfg.toReal equi.toReal := by
  simp only [Arith.clockAborts, CfgBank.toReal, numArith_isPos, numArith_lt, numArith_abs_toReal, numArith_sub_toReal]

@[simp] theorem numArith_nominal_toReal (v : Variant) (cfg : CfgBank NUM) (st : Stage1 NUM) :
    (numArith.nominal v cfg st).toReal = Arith.real.nominal v cfg.toReal st.toReal := by
  obtain ⟨equi, fBeat, obs0, obs1⟩ := st
  cases v <;> cases obs0 <;> simp [Arith.nominal, Stage1.toReal, CfgBank.toReal]

@[simp] theorem Stage1.toReal_equi (st : Stage1 NUM) : st.toReal.equi = st.equi.toReal := rfl

/-- The rate and beat that RUN goes on with (R207). -/
def Arith.usedClock {R : Type} (A : Arith R) (v : Variant) (cfg : CfgBank R) (st : Stage1 R) : Stage1 R :=
  if A.clockAborts v cfg st.equi then A.nominal v cfg st else st

theorem Arith.clockAbort_eq_checks {R : Type} (A : Arith R) (v : Variant) (cfg : CfgBank R) (st : Stage1 R) :
    A.clockAbort v cfg st =
      if !A.isPos (A.usedClock v cfg st).equi then .error .errNumeric
      else if !A.lt cfg.toneCutoff (A.div (A.usedClock v cfg st).equi (A.rat 2)) then .error .errArg
      else .ok (A.usedClock v cfg st, A.clockAborts v cfg st.equi) := rfl

theorem numArith_usedClock_toReal (v : Variant) (cfg : CfgBank NUM) (st : Stage1 NUM) :
    (numArith.usedClock v cfg st).toReal = Arith.real.usedClock v cfg.toReal st.toReal := by
  rw [Arith.usedClock, Arith.usedClock, apply_ite Stage1.toReal, numArith_nominal_toReal, numArith_clockAborts,
    Stage1.toReal_equi]

theorem numArith_clockAbort (v : Variant) (cfg : CfgBank NUM) (st : Stage1 NUM) :
    (numArith.clockAbort v cfg st).map (fun c => (c.1.toReal, c.2))
      = Arith.real.clockAbort v cfg.toReal st.toReal := by
  have cutoff : cfg.toReal.toneCutoff = cfg.toneCutoff.toReal := rfl
  simp only [Arith.clockAbort_eq_checks, apply_ite (Except.map _), Except.mapped_error, Except.mapped_ok,
    ← numArith_usedClock_toReal, numArith_clockAborts, numArith_isPos, numArith_lt, numArith_div_toReal,
    numArith_rat_toReal, Stage1.toReal_equi, cutoff]

/-! Synchronisation (R208, R209). -/

/-- The beat-corrected capture with the sequence found in it, as real numbers. -/
noncomputable def Synced.toReal (sy : Synced NUM) : Synced ℝ := ⟨sy.fBeat.toReal, valuesOf sy.x, sy.s, sy.e⟩

@[simp] theorem numArith_syncStage_toReal (cfg : CfgBank NUM) (cap : List (Cx NUM)) (q : ℕ) (equi fBeat : NUM) :
    (numArith.syncStage cfg cap q equi fBeat).toReal
      = Arith.real.syncStage cfg.toReal (valuesOf cap) q equi.toReal fBeat.toReal := by
  simp only [Arith.syncStage, Synced.toReal, numArith_sync, numArith_fshift_values, CfgBank.toReal]

/-- The second pass as a check followed by a search (R209). -/
theorem Arith.secondPass_eq_bind {R : Type} (A : Arith R) (cfg : CfgBank R) (zones : List (R × R))
    (cap : List (Cx R)) (q : ℕ) (equi : R) (sy : Synced R) :
    A.secondPass cfg zones cap q equi sy =
      if min cap.length (sy.e + cfg.beatSampleCount.toNat) - sy.e < 3 then .ok sy
      else A.find2 (slice cap sy.e (min cap.length (sy.e + cfg.beatSampleCount.toNat))) equi zones
          (A.rat Config.guardBand) >>= fun g => .ok (A.syncStage cfg cap q equi (A.sub g.1 cfg.pilotFreq0)) := by
  unfold Arith.secondPass
  dsimp only
  cases A.find2 (slice cap sy.e (min cap.length (sy.e + cfg.beatSampleCount.toNat))) equi zones
    (A.rat Config.guardBand) <;> rfl

theorem numArith_secondPass (cfg : CfgBank NUM) (zones : List (NUM × NUM)) (cap : List (Cx NUM)) (q : ℕ) (equi : NUM)
    (sy : Synced NUM) :
    (numArith.secondPass cfg zones cap q equi sy).map Synced.toReal
      = Arith.real.secondPass cfg.toReal (zoneValues zones) (valuesOf cap) q equi.toReal sy.toReal := by
  rw [Arith.secondPass_eq_bind, Arith.secondPass_eq_bind, apply_ite (Except.map _), valuesOf_length, ← valuesOf_slice]
  congr 1
  exact Except.map_bind_of_map (numArith_find2 _ equi zones (numArith.rat Config.guardBand)) fun g => by
    rw [Except.mapped_ok, numArith_syncStage_toReal, numArith_sub_toReal]
    rfl

theorem numArith_stage2 (v : Variant) (cfg : CfgBank NUM) (zones : List (NUM × NUM)) (cap : List (Cx NUM)) (q : ℕ)
    (st : Stage1 NUM) :
    (numArith.stage2 v cfg zones cap q st).map Synced.toReal
      = Arith.real.stage2 v cfg.toReal (zoneValues zones) (valuesOf cap) q st.toReal := by
  have first := numArith_syncStage_toReal cfg cap q st.equi st.fBeat
  cases v with
  | ss | su | us => exact congrArg Except.ok first
  | uu =>
    refine (numArith_secondPass cfg zones cap q st.equi _).trans ?_
    rw [first]
    rfl

/-! The subframe loop (R210 to R221). -/

/-- What the subframe loop works on, as real numbers. -/
noncomputable def Plan.toReal (P : Plan NUM) : Plan ℝ :=
  ⟨P.v, P.cfg.toReal, zoneValues P.zones, valuesOf P.x, P.e, P.dataEnd, P.equi.toReal, P.fBeat.toReal, P.sps.toReal⟩

@[simp] theorem numArith_dataEnd (cfg : CfgBank NUM) (N e : ℕ) (sps : NUM) :
    numArith.dataEnd cfg N e sps = Arith.real.dataEnd cfg.toReal N e sps.toReal := by
  simp only [Arith.dataEnd, CfgBank.toReal, numArith_rhd, numArith_mul_toReal, numArith_nat_toReal]

theorem numArith_window (P : Plan NUM) (j begin : ℕ) :
    numArith.window P j begin = Arith.real.window P.toReal j begin := by
  simp only [Arith.window, Plan.toReal, subframeSymbols_toReal, allotted_toReal, numArith_rhd, numArith_mul_toReal,
    numArith_nat_toReal]
  rfl

/-- The residual beat of a subframe whose pilot was observed at `fp` (R214): 0 in the variants with a shared local
oscillator. -/
def Arith.residualBeat {R : Type} (A : Arith R) (P : Plan R) (fp : R) : R :=
  match P.v with
  | .su | .uu => A.sub fp P.cfg.pilotFreq0
  | .ss | .us => A.zero

theorem numArith_residualBeat_toReal (P : Plan NUM) (fp : NUM) :
    (numArith.residualBeat P fp).toReal = Arith.real.residualBeat P.toReal fp.toReal := by
  obtain ⟨v, cfg, zones, x, e, dataEnd, equi, fBeat, sps⟩ := P
  cases v with
  | ss | us => rfl
  | su | uu => exact numArith_sub_toReal fp cfg.pilotFreq0

/-- The pilot that a subframe is tracked by (R214). -/
def Arith.observedPilot {R : Type} (A : Arith R) (P : Plan R) (w : List (Cx R)) : Except ErrCode R :=
  match P.v with
  | .uu => (A.find2 w P.equi P.zones (A.rat Config.guardBand)).map Prod.fst
  | .ss | .su | .us => A.find1 w P.equi P.zones

theorem numArith_observedPilot (P : Plan NUM) (w : List (Cx NUM)) :
    (numArith.observedPilot P w).map NUM.toReal = Arith.real.observedPilot P.toReal (valuesOf w) := by
  obtain ⟨v, cfg, zones, x, e, dataEnd, equi, fBeat, sps⟩ := P
  cases v with
  | ss | su | us => exact numArith_find1 w equi zones
  | uu =>
    have both := congrArg (Except.map Prod.fst) (numArith_find2 w equi zones (numArith.rat Config.guardBand))
    refine Eq.trans ?_ both
    unfold Arith.observedPilot
    cases numArith.find2 w equi zones (numArith.rat Config.guardBand) <;> rfl

/-- Tracking is the observed pilot with its residual beat (R214). -/
theorem Arith.track_eq_bind {R : Type} (A : Arith R) (P : Plan R) (w : List (Cx R)) :
    A.track P w = A.observedPilot P w >>= fun fp => .ok (fp, A.residualBeat P fp) := by
  obtain ⟨v, cfg, zones, x, e, dataEnd, equi, fBeat, sps⟩ := P
  cases v with
  | ss | su | us =>
    simp only [Arith.track, Arith.observedPilot]
    cases A.find1 w equi zones <;> rfl
  | uu =>
    simp only [Arith.track, Arith.observedPilot]
    cases A.find2 w equi zones (A.rat Config.guardBand) <;> rfl

theorem numArith_track (P : Plan NUM) (w : List (Cx NUM)) :
    (numArith.track P w).map (fun f => (f.1.toReal, f.2.toReal)) = Arith.real.track P.toReal (valuesOf w) := by
  rw [Arith.track_eq_bind, Arith.track_eq_bind]
  exact Except.map_bind_of_map (numArith_observedPilot P w) fun fp => by
    rw [Except.mapped_ok, numArith_residualBeat_toReal]

theorem numArith_advance (P : Plan NUM) (b p ny begin : ℕ) :
    numArith.advance P b p ny begin = Arith.real.advance P.toReal b p ny begin := by
  simp only [Arith.advance, Plan.toReal, numArith_rhd, numArith_add_toReal, numArith_mul_toReal, numArith_nat_toReal]
  rfl

/-- The window `w` of a subframe after the de-shift and the matched filter (R216). -/
def Arith.filtered {R : Type} (A : Arith R) (P : Plan R) (w : List (Cx R)) (beat : R) : List (Cx R) :=
  A.mfilt (A.fshift w (A.add P.cfg.frequencyShift beat) P.equi) P.sps P.cfg.rollOff P.cfg.symbolRate P.equi

/-- The sampling offset of a subframe (R217). -/
def Arith.samplingOffset {R : Type} (A : Arith R) (P : Plan R) (w : List (Cx R)) (beat : R) : ℕ :=
  A.bestpoint (A.filtered P w beat) P.sps

/-- The symbols of a subframe before the phase correction (R217). -/
def Arith.rawSymbols {R : Type} (A : Arith R) (P : Plan R) (w : List (Cx R)) (beat : R) : List (Cx R) :=
  A.downsample A.czero (A.filtered P w beat) (A.samplingOffset P w beat) P.sps

/-- Steps a to f of a subframe with its three recoverable failures in a row: tracking, tone and phase correction
(R214 to R218). -/
theorem Arith.processSubframe_eq_bind {R : Type} (A : Arith R) (P : Plan R) (b hi begin : ℕ) :
    A.processSubframe P b hi begin =
      let w := slice P.x b hi
      A.track P w >>= fun f =>
      A.tone w f.1 P.equi P.cfg.firSize.toNat P.cfg.toneCutoff >>= fun t =>
      A.phcorr (A.rawSymbols P w f.2)
        (A.phnoise t (A.add P.cfg.pilotFreq0 f.2) P.equi P.cfg.phaseFilterSize.toNat)
        (A.samplingOffset P w f.2) P.sps >>= fun z =>
      .ok (⟨z, A.rawSymbols P w f.2, t, some (A.add (A.add P.cfg.frequencyShift P.fBeat) f.2)⟩,
        A.advance P b (A.samplingOffset P w f.2) (A.rawSymbols P w f.2).length begin) := rfl

theorem numArith_filtered_values (P : Plan NUM) (w : List (Cx NUM)) (beat : NUM) :
    valuesOf (numArith.filtered P w beat) = Arith.real.filtered P.toReal (valuesOf w) beat.toReal := by
  simp only [Arith.filtered, numArith_mfilt_values, numArith_fshift_values, numArith_add_toReal]
  rfl

theorem numArith_samplingOffset (P : Plan NUM) (w : List (Cx NUM)) (beat : NUM) :
    numArith.samplingOffset P w beat = Arith.real.samplingOffset P.toReal (valuesOf w) beat.toReal := by
  rw [Arith.samplingOffset, numArith_bestpoint, numArith_filtered_values]
  rfl

theorem numArith_rawSymbols_values (P : Plan NUM) (w : List (Cx NUM)) (beat : NUM) :
    valuesOf (numArith.rawSymbols P w beat) = Arith.real.rawSymbols P.toReal (valuesOf w) beat.toReal := by
  rw [Arith.rawSymbols, numArith_downsample_values, numArith_filtered_values, numArith_samplingOffset]
  rfl

/-- One subframe with the next `begin`, as real numbers. -/
noncomputable def turnValues (r : Subframe NUM × ℕ) : Subframe ℝ × ℕ := (r.1.toReal, r.2)

theorem numArith_processSubframe (P : Plan NUM) (b hi begin : ℕ) :
    (numArith.processSubframe P b hi begin).map turnValues
      = Arith.real.processSubframe P.toReal b hi begin := by
  have window : slice P.toReal.x b hi = valuesOf (slice P.x b hi) := (valuesOf_slice P.x b hi).symm
  rw [Arith.processSubframe_eq_bind, Arith.processSubframe_eq_bind, window]
  refine Except.map_bind_of_map (numArith_track P _) fun f => ?_
  refine Except.map_bind_of_map (numArith_tone _ f.1 P.equi _ P.cfg.toneCutoff) fun t => ?_
  refine Except.map_bind_of_map (f := valuesOf) ?_ fun z => ?_
  · rw [numArith_phcorr, numArith_rawSymbols_values, numArith_phnoise_toReal, numArith_samplingOffset,
      numArith_add_toReal]
    rfl
  · rw [Except.mapped_ok, turnValues, numArith_advance, numArith_samplingOffset, ← numArith_rawSymbols_values,
      valuesOf_length, Subframe.toReal, Option.map_some, numArith_add_toReal, numArith_add_toReal]
    rfl

theorem numArith_subframe (P : Plan NUM) (j begin : ℕ) :
    (numArith.subframe P j begin).map turnValues = Arith.real.subframe P.toReal j begin := by
  simp only [Arith.subframe, apply_ite (Except.map _), numArith_window, numArith_processSubframe]
  rfl

/-- One more turn of the loop (R220). -/
theorem Arith.subframes_succ {R : Type} (A : Arith R) (P : Plan R) (n j begin : ℕ) :
    A.subframes P (n + 1) j begin =
      A.subframe P j begin >>= fun r => A.subframes P n (j + 1) r.2 >>= fun rest => .ok (r.1 :: rest) := by
  rw [Arith.subframes]
  cases A.subframe P j begin with
  | error e => rfl
  | ok r =>
    dsimp only [bind, Except.bind]
    cases A.subframes P n (j + 1) r.2 <;> rfl

theorem numArith_subframes (P : Plan NUM) (n j begin : ℕ) :
    (numArith.subframes P n j begin).map (List.map Subframe.toReal)
      = Arith.real.subframes P.toReal n j begin := by
  induction n generalizing j begin with
  | zero => rfl
  | succ n ih =>
    rw [Arith.subframes_succ, Arith.subframes_succ]
    refine Except.map_bind_of_map (numArith_subframe P j begin) fun r => ?_
    exact Except.map_bind_of_map (ih (j + 1) r.2) fun rest => rfl

/-! The outputs of RUN (R219, R225). -/

/-- The shifts applied, as real numbers. -/
theorem shifts_toReal (frames : List (Subframe NUM)) :
    (frames.map Subframe.toReal).filterMap Subframe.shift
      = (frames.filterMap Subframe.shift).map NUM.toReal := by
  rw [List.filterMap_map, List.map_filterMap]
  rfl

theorem numArith_meanShift_toReal (cfg : CfgBank NUM) (fBeat : NUM) (frames : List (Subframe NUM)) :
    (numArith.meanShift cfg fBeat frames).toReal
      = Arith.real.meanShift cfg.toReal fBeat.toReal (frames.map Subframe.toReal) := by
  simp only [Arith.meanShift, shifts_toReal, List.isEmpty_map, apply_ite NUM.toReal, numArith_add_toReal,
    numArith_mean_toReal]
  rfl

@[simp] theorem RunOut.toReal_symbols (o : RunOut NUM) : o.toReal.symbols = valuesOf o.symbols := by
  simp only [RunOut.symbols, RunOut.toReal, valuesOf, List.flatMap_map, List.map_flatMap]
  rfl
@[simp] theorem RunOut.toReal_preSymbols (o : RunOut NUM) : o.toReal.preSymbols = valuesOf o.preSymbols := by
  simp only [RunOut.preSymbols, RunOut.toReal, valuesOf, List.flatMap_map, List.map_flatMap]
  rfl
@[simp] theorem RunOut.toReal_tones (o : RunOut NUM) : o.toReal.tones = valuesOf o.tones := by
  simp only [RunOut.tones, RunOut.toReal, valuesOf, List.flatMap_map, List.map_flatMap]
  rfl

theorem RunOut.toReal_checkLengths (o : RunOut NUM) :
    o.checkLengths.map RunOut.toReal = o.toReal.checkLengths := by
  simp only [RunOut.checkLengths, apply_ite (Except.map _), Except.mapped_error, Except.mapped_ok,
    RunOut.toReal_symbols, RunOut.toReal_preSymbols, RunOut.toReal_tones, valuesOf_length]

/-- What the subframe loop of a RUN works on, after the stages before it (R201, R210). -/
def Arith.planOf {R : Type} (A : Arith R) (cfg : CfgBank R) (zones : List (R × R)) (N : ℕ) (st : Stage1 R)
    (sy : Synced R) : Plan R :=
  ⟨variantOf cfg.clockShared cfg.loShared, cfg, zones, sy.x, sy.e,
    A.dataEnd cfg N sy.e (A.div st.equi cfg.symbolRate), st.equi, sy.fBeat, A.div st.equi cfg.symbolRate⟩

/-- What a RUN computes, from its stages (R219, R224 to R226). -/
def Arith.outputOf {R : Type} (A : Arith R) (cfg : CfgBank R) (N : ℕ) (clock : Stage1 R × Bool) (sy : Synced R)
    (frames : List (Subframe R)) : RunOut R :=
  ⟨variantOf cfg.clockShared cfg.loShared, frames, clock.1.equi, clock.2, sy.fBeat, clock.1.obs0, clock.1.obs1, sy.s,
    sy.e, A.dataEnd cfg N sy.e (A.div clock.1.equi cfg.symbolRate), A.meanShift cfg sy.fBeat frames⟩

/-- RUN stage by stage (R200). -/
theorem Arith.run_eq_bind {R : Type} (A : Arith R) (cfg : CfgBank R) (zones : List (R × R)) (cap : List (Cx R)) :
    A.run cfg zones cap =
      let v := variantOf cfg.clockShared cfg.loShared
      checkSchema cfg.detectionSchema >>= fun _ =>
      checkPilots v cfg.numPilots.toNat >>= fun _ =>
      A.checkOperands v cfg cap.length >>= fun q =>
      A.stage1 v cfg zones cap >>= fun est =>
      A.clockAbort v cfg est >>= fun clock =>
      A.stage2 v cfg zones cap q clock.1 >>= fun sy =>
      A.subframes (A.planOf cfg zones cap.length clock.1 sy) (subframeCount cfg) 0 sy.e >>= fun frames =>
      (A.outputOf cfg cap.length clock sy frames).checkLengths := rfl

theorem numArith_planOf_toReal (cfg : CfgBank NUM) (zones : List (NUM × NUM)) (N : ℕ) (st : Stage1 NUM)
    (sy : Synced NUM) :
    (numArith.planOf cfg zones N st sy).toReal
      = Arith.real.planOf cfg.toReal (zoneValues zones) N st.toReal sy.toReal := by
  simp only [Arith.planOf, Plan.toReal, numArith_dataEnd, numArith_div_toReal]
  rfl

theorem numArith_outputOf_toReal (cfg : CfgBank NUM) (N : ℕ) (clock : Stage1 NUM × Bool) (sy : Synced NUM)
    (frames : List (Subframe NUM)) :
    (numArith.outputOf cfg N clock sy frames).toReal
      = Arith.real.outputOf cfg.toReal N (clock.1.toReal, clock.2) sy.toReal (frames.map Subframe.toReal) := by
  simp only [Arith.outputOf, RunOut.toReal, numArith_dataEnd, numArith_div_toReal, numArith_meanShift_toReal]
  rfl

theorem numArith_run (cfg : CfgBank NUM) (zones : List (NUM × NUM)) (cap : List (Cx NUM)) :
    (numArith.run cfg zones cap).map RunOut.toReal
      = Arith.real.run cfg.toReal (zoneValues zones) (valuesOf cap) := by
  rw [Arith.run_eq_bind, Arith.run_eq_bind, valuesOf_length]
  dsimp only
  rw [numArith_checkOperands]
  refine Except.map_bind_same fun _ => Except.map_bind_same fun _ => Except.map_bind_same fun q => ?_
  refine Except.map_bind_of_map (numArith_stage1 _ cfg zones cap) fun est => ?_
  refine Except.map_bind_of_map (numArith_clockAbort _ cfg est) fun clock => ?_
  refine Except.map_bind_of_map (numArith_stage2 _ cfg zones cap q clock.1) fun sy => ?_
  rw [← numArith_planOf_toReal]
  refine Except.map_bind_of_map (numArith_subframes _ (subframeCount cfg) 0 sy.e) fun frames => ?_
  rw [← numArith_outputOf_toReal, RunOut.toReal_checkLengths]

/-! SPECIAL (R240). -/

theorem numArith_calibrate_values (snap : SnapBank NUM) (x : List (Cx NUM)) :
    valuesOf (numArith.calibrate snap x) = Arith.real.calibrate snap.toReal (valuesOf x) := by
  simp only [Arith.calibrate, numArith_downsample_values, numArith_mfilt_values, numArith_fshift_values,
    numArith_div_toReal]
  rfl

theorem numArith_calibrateLen (snap : SnapBank NUM) (n : ℕ) :
    numArith.calibrateLen snap n = Arith.real.calibrateLen snap.toReal n := by
  simp only [Arith.calibrateLen, numArith_downsampleLen, numArith_div_toReal]
  rfl

theorem numArith_special (snap : SnapBank NUM) (calE calES : List (Cx NUM)) :
    (numArith.special snap calE calES).map (fun y => (valuesOf y.1, valuesOf y.2))
      = Arith.real.special snap.toReal (valuesOf calE) (valuesOf calES) := by
  simp only [Arith.special, apply_ite (Except.map _), Except.mapped_error, Except.mapped_ok, numArith_isPos,
    numArith_rollOffOk, numArith_calibrateLen, numArith_calibrate_values, valuesOf_isEmpty, valuesOf_length]
  rfl

/-- Settles O60: the lemmas of this layer, rule by rule. -/
theorem termsAreReals : Obligations.TermsAreReals :=
  ⟨fun _ => numArith_downsample, numArith_bestpoint, numArith_reference_values, numArith_sync, numArith_find1,
    fun x rate G zones => numArith_find2 x rate zones G, numArith_tone, numArith_eqrate, numArith_phnoise_toReal,
    numArith_phcorr, numArith_fshift_values, numArith_mfilt_values, numArith_run, numArith_special⟩

end Sys2Proof.Machine
end

section
/-! What a command does when it completes, said once for every command (20_memory.md R67, 60_exceptions.md R284):
the reset of SRESET, the failure update, or the success update after the command's own writes. The frames of the
buffers, registers and flags are read off these cases. -/

namespace Sys2Proof.Machine

/-- The rule that a command completes with. SRESET has none: it does not complete, it resets (47_system.md R252). -/
noncomputable def ruleOf (i : Instr) (s : State) : Except ErrCode State :=
  match i with
  | .nop | .sreset => .ok s
  | .clrerr => .ok { s with status := s.status.acknowledged, errInfo := 0#32 }
  | .downsample bd bs => downsampleRule s bd bs
  | .bestpoint bs => bestpointRule s bs
  | .zcgen bd => zcgenRule s bd
  | .sync bs => syncRule s bs
  | .find1 bs => find1Rule s bs
  | .find2 bs => find2Rule s bs
  | .tone bd bs => toneRule s bd bs
  | .eqrate bs => eqrateRule s bs
  | .phnoise bd bs => phnoiseRule s bd bs
  | .phcorr bd bs bt => phcorrRule s bd bs bt
  | .fshift bd bs => fshiftRule s bd bs
  | .mfilt bd bs => mfiltRule s bd bs
  | .run => runRule s
  | .special => specialRule s

theorem exec_sreset_eq (s : State) : exec .sreset s = .next s.resetBlock := rfl

theorem exec_eq_complete (i : Instr) (s : State) (hi : i ≠ .sreset) :
    exec i s = .next (s.complete (ruleOf i s)) := by
  cases i with
  | sreset => exact absurd rfl hi
  | _ => rfl

/-- How the result registers may change under a command (10_state.md R26). -/
def resultFrame (i : Instr) (old new : ResBank) : Prop :=
  match i with
  | .sreset => new = ResBank.reset
  | .bestpoint _ => new = { old with i0 := new.i0 }
  | .sync _ => new = { old with i0 := new.i0, i1 := new.i1 }
  | .find1 _ => new = { old with n0 := new.n0 }
  | .find2 _ | .eqrate _ => new = { old with n0 := new.n0, n1 := new.n1 }
  | _ => new = old

/-- Result registers that keep their values are within the frame of every command but SRESET. -/
theorem resultFrame_refl {i : Instr} (hi : i ≠ .sreset) (r : ResBank) : resultFrame i r r := by
  cases i with
  | sreset => exact absurd rfl hi
  | _ => rfl

/-- `Written i s u`: from the state `s`, the command `i` has written its destinations without error, and left `u`.
Nothing is completed yet. -/
inductive Written : Instr → State → State → Prop
  /-- NOP writes nothing (47_system.md R250). -/
  | nothing (s : State) : Written .nop s s
  /-- CLRERR acknowledges the error (R251). -/
  | acknowledged (s : State) : Written .clrerr s { s with status := s.status.acknowledged, errInfo := 0#32 }
  /-- One work buffer, with a content that fits when the buffers of `s` do (30_encoding.md R85). -/
  | workBuffer {i : Instr} {s : State} {bd : BufId} {a : List (Cx NUM)} (named : mayWrite i bd)
      (work : 3 ≤ bd.val ∧ bd.val ≤ 6) (fits : s.mem.wf = true → a.length ≤ Config.bufMax) :
      Written i s (s.setBuf bd a)
  /-- Result registers, within the frame of the command (10_state.md R26). -/
  | results {i : Instr} {s : State} {r : ResBank} (frame : resultFrame i s.res r) :
      Written i s { s with res := r }
  /-- The outputs of a RUN that succeeds (45_pipeline.md R200). -/
  | runOutputs {s : State} {o : RunOut NUM} (ran : numArith.run s.cfg s.zones (s.buf BufId.cap) = .ok o) :
      Written .run s (s.writeRun o)
  /-- The two outputs of SPECIAL, which fit (46_special_dsp.md R240). -/
  | specialOutputs {s : State} {y z : List (Cx NUM)} (fitsE : y.length ≤ Config.bufMax)
      (fitsES : z.length ≤ Config.bufMax) :
      Written .special s
        (({ s with status := s.status.specialDone }.setBuf BufId.spoE y).setBuf BufId.spoES z)

theorem destinationOk_isWork {bd : BufId} {sources : List BufId} (h : destinationOk bd sources = true) :
    3 ≤ bd.val ∧ bd.val ≤ 6 := by
  simp only [destinationOk, BufId.isWork, Bool.and_eq_true, decide_eq_true_eq] at h
  exact h.1

/-- A command whose destination is `bd`, when `bd` passed the check of R85. -/
theorem Written.ofDestination {i : Instr} {s : State} {bd : BufId} {sources : List BufId} {a : List (Cx NUM)}
    (named : 3 ≤ bd.val ∧ bd.val ≤ 6 → mayWrite i bd) (ok : destinationOk bd sources = true)
    (fits : s.mem.wf = true → a.length ≤ Config.bufMax) : Written i s (s.setBuf bd a) :=
  .workBuffer (named (destinationOk_isWork ok)) (destinationOk_isWork ok) fits

theorem State.buf_length_le {s : State} (h : s.mem.wf = true) (b : BufId) : (s.buf b).length ≤ Config.bufMax :=
  s.wf_iff.mp h b

/-- A rule that succeeds has written what its command may write, and nothing else. -/
theorem written_of_ruleOf {i : Instr} {s u : State} (hi : i ≠ .sreset) (h : ruleOf i s = .ok u) : Written i s u := by
  cases i with
  | sreset => exact absurd rfl hi
  | nop => cases h; exact .nothing s
  | clrerr => cases h; exact .acknowledged s
  | downsample bd bs =>
    obtain ⟨ok, -, -, fits, rfl⟩ := downsampleRule_ok h
    exact .ofDestination (fun work => ⟨rfl, work⟩) ok fun _ => by simpa using fits
  | bestpoint bs => obtain ⟨-, -, -, rfl⟩ := bestpointRule_ok h; exact .results rfl
  | zcgen bd =>
    obtain ⟨ok, -, -, fits, rfl⟩ := zcgenRule_ok h
    exact .ofDestination (fun work => ⟨rfl, work⟩) ok fun _ => by simpa using fits
  | sync bs => obtain ⟨-, -, -, -, rfl⟩ := syncRule_ok h; exact .results rfl
  | find1 bs => obtain ⟨-, -, f, -, rfl⟩ := find1Rule_ok h; exact .results rfl
  | find2 bs => obtain ⟨-, -, -, f, -, rfl⟩ := find2Rule_ok h; exact .results rfl
  | tone bd bs =>
    obtain ⟨ok, -, -, -, -, y, hy, rfl⟩ := toneRule_ok h
    exact .ofDestination (fun work => ⟨rfl, work⟩) ok fun wf => by
      rw [numArith.tone_length hy]; exact State.buf_length_le wf bs
  | eqrate bs => obtain ⟨-, -, -, -, -, -, r, -, rfl⟩ := eqrateRule_ok h; exact .results rfl
  | phnoise bd bs =>
    obtain ⟨ok, -, -, rfl⟩ := phnoiseRule_ok h
    exact .ofDestination (fun work => ⟨rfl, work⟩) ok fun wf => by simpa using State.buf_length_le wf bs
  | phcorr bd bs bt =>
    obtain ⟨ok, -, -, -, z, hz, rfl⟩ := phcorrRule_ok h
    exact .ofDestination (fun work => ⟨rfl, work⟩) ok fun wf => by
      rw [numArith.phcorr_length hz]; exact State.buf_length_le wf bs
  | fshift bd bs =>
    obtain ⟨ok, -, -, rfl⟩ := fshiftRule_ok h
    exact .ofDestination (fun work => ⟨rfl, work⟩) ok fun wf => by simpa using State.buf_length_le wf bs
  | mfilt bd bs =>
    obtain ⟨ok, -, -, -, -, -, rfl⟩ := mfiltRule_ok h
    exact .ofDestination (fun work => ⟨rfl, work⟩) ok fun wf => by simpa using State.buf_length_le wf bs
  | run => obtain ⟨o, ran, rfl⟩ := runRule_ok h; exact .runOutputs ran
  | special =>
    obtain ⟨-, -, -, -, -, -, fitsE, fitsES, rfl⟩ := specialRule_ok h
    exact .specialOutputs (by simpa using fitsE) (by simpa using fitsES)

/-- Everything a command can do: reset the block, fail, or write its destinations and succeed. -/
theorem exec_cases {i : Instr} {s t : State} (h : exec i s = .next t) :
    (i = .sreset ∧ t = s.resetBlock)
    ∨ (i ≠ .sreset ∧ ∃ e, t = s.fail e)
    ∨ (i ≠ .sreset ∧ ∃ u, Written i s u ∧ t = u.succeed) := by
  by_cases hi : i = .sreset
  · subst hi
    rw [exec_sreset_eq] at h
    cases h
    exact .inl ⟨rfl, rfl⟩
  · rw [exec_eq_complete i s hi] at h
    cases h
    obtain ⟨e, -, he⟩ | ⟨u, hu, he⟩ := s.complete_cases (ruleOf i s)
    · exact .inr (.inl ⟨hi, e, he⟩)
    · exact .inr (.inr ⟨hi, u, written_of_ruleOf hi hu, he⟩)

/-! What the writes of a command leave unchanged. -/

namespace Written

variable {i : Instr} {s u : State}

theorem buf_eq (h : Written i s u) {b : BufId} (hb : ¬ mayWrite i b) : u.buf b = s.buf b := by
  cases h with
  | nothing | acknowledged | results => rfl
  | workBuffer named => exact s.setBuf_buf_ne _ _ _ fun e => hb (e ▸ named)
  | runOutputs =>
    obtain ⟨hout, htone, hpre⟩ : b ≠ BufId.out ∧ b ≠ BufId.dbgTone ∧ b ≠ BufId.dbgPre := by
      simpa only [mayWrite, not_or] using hb
    simp [State.writeRun_buf, hout, htone, hpre]
  | specialOutputs =>
    obtain ⟨he, hes⟩ : b ≠ BufId.spoE ∧ b ≠ BufId.spoES := by simpa only [mayWrite, not_or] using hb
    rw [State.setBuf_buf_ne _ _ _ _ hes.symm, State.setBuf_buf_ne _ _ _ _ he.symm]
    rfl

/-- No command writes the environment's fields, an argument, a configuration register or a zone. -/
theorem registers_eq (h : Written i s u) :
    u.agenda = s.agenda ∧ u.answer = s.answer ∧ u.arg = s.arg ∧ u.cfg = s.cfg ∧ u.exclLo = s.exclLo
    ∧ u.exclHi = s.exclHi := by
  cases h with
  | runOutputs => simp [State.writeRun_frame]
  | _ => exact ⟨rfl, rfl, rfl, rfl, rfl, rfl⟩

/-- The snapshot, the debug bank and the subframe tables are RUN's. -/
theorem tables_eq (h : Written i s u) (hi : i ≠ .run) :
    u.snap = s.snap ∧ u.dbg = s.dbg ∧ u.sfCount = s.sfCount ∧ u.sfLen = s.sfLen ∧ u.dbgTlen = s.dbgTlen := by
  cases h with
  | runOutputs => exact absurd rfl hi
  | _ => exact ⟨rfl, rfl, rfl, rfl, rfl⟩

/-- With CFG_DEBUG = 0, RUN too leaves the debug record (45_pipeline.md R226). -/
theorem debug_eq (h : Written i s u) (hd : s.cfg.debug = false) : u.dbg = s.dbg ∧ u.dbgTlen = s.dbgTlen := by
  cases h with
  | runOutputs => simp [State.writeRun_fields, hd]
  | _ => exact ⟨rfl, rfl⟩

theorem res_frame (h : Written i s u) (hi : i ≠ .sreset) : resultFrame i s.res u.res := by
  cases h with
  | results frame => exact frame
  | runOutputs =>
    obtain ⟨-, -, -, -, hres, -⟩ := s.writeRun_frame _
    exact hres
  | _ => exact resultFrame_refl hi s.res

theorem runFlags_eq (h : Written i s u) (hi : i ≠ .run) :
    u.status.resultValid = s.status.resultValid ∧ u.status.snapValid = s.status.snapValid
    ∧ u.status.dbgValid = s.status.dbgValid ∧ u.status.clockAborted = s.status.clockAborted
    ∧ u.status.short = s.status.short := by
  cases h with
  | runOutputs => exact absurd rfl hi
  | _ => exact ⟨rfl, rfl, rfl, rfl, rfl⟩

theorem specialValid_eq (h : Written i s u) (hi : i ≠ .special) : u.status.specialValid = s.status.specialValid := by
  cases h with
  | runOutputs => simp [State.writeRun_fields]
  | specialOutputs => exact absurd rfl hi
  | _ => rfl

theorem records_eq (h : Written i s u) (hi : i ≠ .clrerr) :
    u.status.hostViol = s.status.hostViol ∧ u.status.errSticky = s.status.errSticky := by
  cases h with
  | acknowledged => exact absurd rfl hi
  | runOutputs => simp [State.writeRun_fields]
  | _ => exact ⟨rfl, rfl⟩

/-- ERR belongs to the completion. -/
theorem err_eq (h : Written i s u) : u.status.err = s.status.err := by
  cases h with
  | runOutputs => simp [State.writeRun_fields]
  | _ => rfl

end Written

/-- Settles O20: a failure writes no buffer, and a success writes what `Written` allows. -/
theorem bufferFrame : Obligations.BufferFrame := by
  intro i s t h b hb
  have hbuf : t.buf b = s.buf b := by
    obtain ⟨rfl, rfl⟩ | ⟨-, e, rfl⟩ | ⟨-, u, hw, rfl⟩ := exec_cases h
    · exact absurd trivial hb
    · rfl
    · exact hw.buf_eq hb
  refine ⟨hbuf, fun n => ?_⟩
  rw [Memory.read_lt, Memory.read_lt]
  exact congrArg (·[n]?) hbuf

/-- Settles O21: a failure writes no register of these banks, and a success writes what `Written` allows. -/
theorem registerFrame : Obligations.RegisterFrame := by
  intro i s t h
  obtain ⟨rfl, rfl⟩ | ⟨-, e, rfl⟩ | ⟨-, u, hw, rfl⟩ := exec_cases h
  · exact ⟨rfl, rfl, fun hi => absurd rfl hi, fun hi => absurd rfl hi, fun hi => absurd rfl hi⟩
  · exact ⟨rfl, rfl, fun _ => ⟨rfl, rfl, rfl, rfl⟩, fun _ _ => ⟨rfl, rfl, rfl, rfl, rfl⟩, fun _ _ => ⟨rfl, rfl⟩⟩
  · obtain ⟨hagenda, hanswer, hregs⟩ := hw.registers_eq
    exact ⟨hagenda, hanswer, fun _ => hregs, fun _ hi => hw.tables_eq hi, fun _ hd => hw.debug_eq hd⟩

/-- Settles O22: `resultFrame` is the statement's own table, and a failure is within it. -/
theorem resultRegisterFrame : Obligations.ResultRegisterFrame := by
  intro i s t h
  change resultFrame i s.res t.res
  obtain ⟨rfl, rfl⟩ | ⟨hi, e, rfl⟩ | ⟨hi, u, hw, rfl⟩ := exec_cases h
  · rfl
  · exact resultFrame_refl hi s.res
  · exact hw.res_frame hi

/-- Settles O23: a completion sets BUSY, DONE, ERR and ERR_STICKY; the other flags are written as `Written` allows. -/
theorem flagFrame : Obligations.FlagFrame := by
  intro i s t h hs
  obtain ⟨rfl, -⟩ | ⟨-, e, rfl⟩ | ⟨-, u, hw, rfl⟩ := exec_cases h
  · exact absurd rfl hs
  · exact ⟨fun _ => ⟨rfl, rfl, rfl, rfl, rfl⟩, fun _ => rfl, fun _ => ⟨rfl, fun _ => rfl⟩⟩
  · refine ⟨fun hi => hw.runFlags_eq hi, fun hi => hw.specialValid_eq hi, fun hi => ?_⟩
    obtain ⟨hviol, hsticky⟩ := hw.records_eq hi
    exact ⟨hviol, fun h => hsticky.trans h⟩

end Sys2Proof.Machine
end

section
/-! What a step can do, said once: the environment's next event is used up, and then the block has its turn, the host
makes its access, WAIT polls or the reset input is applied (log 3). -/

namespace Sys2Proof.Machine

variable {s t : State}

/-- The block's turn: idle, the latched command, or the failure of an illegal word (20_memory.md R67,
30_encoding.md R88). -/
theorem blockStep_cases (h : blockStep s = .next t) :
    (s.status.busy = false ∧ t = s)
    ∨ (s.status.busy = true ∧ ∃ i, decode s.latch = .ok i ∧ exec i s = .next t)
    ∨ (s.status.busy = true ∧ t = s.fail .errIllegal) := by
  unfold blockStep at h
  split at h
  · split at h
    · exact .inr (.inl ⟨‹_›, _, ‹_›, h⟩)
    · cases h
      exact .inr (.inr ⟨‹_›, rfl⟩)
  · cases h
    exact .inl ⟨eq_false_of_ne_true ‹_›, rfl⟩

/-- The state with its next event taken from the agenda. -/
def State.taken (s : State) : State := { s with agenda := s.agenda.tail }

theorem State.taken_of_nil (h : s.agenda = []) : s.taken = s := by
  cases s
  cases h
  rfl

theorem State.taken_of_cons {e : Event} {rest : List Event} (h : s.agenda = e :: rest) :
    s.taken = { s with agenda := rest } := by
  rw [State.taken, h, List.tail_cons]

theorem step_cases (h : step s = .next t) :
    blockStep s.taken = .next t ∨ (∃ a, t = s.taken.hostAccess a) ∨ t = s.taken.poll ∨ t = s.taken.resetBlock := by
  unfold step at h
  split at h
  next ha => exact .inl ((State.taken_of_nil ha).symm ▸ h)
  all_goals rw [State.taken_of_cons ‹_›]
  next => exact .inl h
  next => cases h; exact .inr (.inl ⟨_, rfl⟩)
  next => cases h; exact .inr (.inr (.inl rfl))
  next => cases h; exact .inr (.inr (.inr rfl))

/-- A poll of WAIT is a read of STATUS, and leaves some agenda behind. -/
theorem State.poll_eq (s : State) :
    ∃ rest, s.poll = { s.hostAccess (.regRead Reg.status.number) with agenda := rest } := by
  unfold State.poll
  dsimp only
  split
  · exact ⟨_, rfl⟩
  · exact ⟨_, rfl⟩

/-- A register write is refused, or it reaches a register that the host may write while no command runs
(20_memory.md R65, R68). -/
theorem State.regWrite_cases (s : State) (n : ℕ) (w : Word) (x : NUM) :
    s.regWrite n w x = s.refuse
    ∨ ∃ r, regAt n = some r ∧ r.access ≠ .readOnly ∧ s.regWrite n w x = r.write s w x := by
  unfold State.regWrite
  split
  · exact .inl rfl
  · split
    · exact .inl rfl
    · rename_i r hr hw
      refine .inr ⟨r, hr, fun hro => hw ?_, rfl⟩
      simp [hro]

/-- A register read changes the answer, and STATUS by HOSTVIOL when it is refused (R64, R68). -/
theorem State.regRead_cases (s : State) (n : ℕ) :
    ∃ v, s.regRead n = { s with answer := v } ∨ s.regRead n = { s.refuse with answer := v } := by
  unfold State.regRead
  split
  · exact ⟨_, .inr rfl⟩
  · split
    · exact ⟨_, .inl rfl⟩
    · exact ⟨_, .inr rfl⟩

/-- So does a buffer read (R62, R68). -/
theorem State.bufRead_cases (s : State) (b i : ℕ) :
    ∃ v, s.bufRead b i = { s with answer := v } ∨ s.bufRead b i = { s.refuse with answer := v } := by
  unfold State.bufRead
  split
  · exact ⟨_, .inl rfl⟩
  · exact ⟨_, .inr rfl⟩

/-- A buffer write is refused, or it replaces an element of a buffer that the host may write (R63, R68). -/
theorem State.bufWrite_cases (s : State) (b i : ℕ) (v : Cx NUM) :
    s.bufWrite b i v = s.refuse
    ∨ ∃ c : BufId, c.val ≤ 6 ∧ s.bufWrite b i v = s.setBuf c ((s.buf c).set i v) := by
  unfold State.bufWrite
  split
  · exact .inl rfl
  · rename_i c _
    split
    · exact .inl rfl
    · rename_i hw
      simp only [Bool.or_eq_true, Bool.not_eq_true', not_or] at hw
      obtain ⟨⟨-, hc⟩, -⟩ := hw
      exact .inr ⟨c, by simpa [BufId.hostWritable] using hc, rfl⟩

end Sys2Proof.Machine
end

section
/-! The buffers stay within BUF_MAX (10_state.md R33). -/

namespace Sys2Proof.Machine

variable {i : Instr} {s t u : State}

/-- The outputs of a RUN that succeeds fit (45_pipeline.md R219). -/
theorem State.writeRun_wf {o : RunOut NUM} (ran : numArith.run s.cfg s.zones (s.buf BufId.cap) = .ok o)
    (h : s.mem.wf = true) : (s.writeRun o).mem.wf = true := by
  obtain ⟨_, _, _, _, trace⟩ := numArith.run_ok ran
  rw [State.wf_iff]
  intro b
  rw [State.writeRun_buf]
  split
  · exact trace.preSymbols
  · split
    · exact trace.tones
    · split
      · exact trace.symbols
      · exact State.buf_length_le h b

/-- What a command writes fits. -/
theorem Written.mem_wf (hw : Written i s u) (h : s.mem.wf = true) : u.mem.wf = true := by
  cases hw with
  | nothing | acknowledged | results => exact h
  | workBuffer _ _ fits => exact s.setBuf_wf _ _ h (fits h)
  | runOutputs ran => exact State.writeRun_wf ran h
  | specialOutputs fitsE fitsES => exact State.setBuf_wf _ _ _ (State.setBuf_wf _ _ _ h fitsE) fitsES

theorem exec_wf (h : s.mem.wf = true) (hx : exec i s = .next t) : t.mem.wf = true := by
  obtain ⟨-, rfl⟩ | ⟨-, e, rfl⟩ | ⟨-, u, hw, rfl⟩ := exec_cases hx
  · exact Memory.wf_reset
  · exact h
  · exact hw.mem_wf h

theorem blockStep_wf (h : s.mem.wf = true) (hx : blockStep s = .next t) : t.mem.wf = true := by
  obtain ⟨-, rfl⟩ | ⟨-, i, -, hx⟩ | ⟨-, rfl⟩ := blockStep_cases hx
  · exact h
  · exact exec_wf h hx
  · exact h

theorem State.poll_wf (s : State) (h : s.mem.wf = true) : s.poll.mem.wf = true := by
  obtain ⟨rest, hp⟩ := s.poll_eq
  rw [hp]
  exact s.hostAccess_wf _ h

/-- Settles O10: the block's turn writes only what fits, and the host's lemmas are those of `Memory.wf`. -/
theorem buffersStayInCapacity : Obligations.BuffersStayInCapacity := by
  intro s t h hstep
  obtain hx | ⟨a, rfl⟩ | rfl | rfl := step_cases hstep
  · exact blockStep_wf (s := s.taken) h hx
  · exact s.taken.hostAccess_wf a h
  · exact s.taken.poll_wf h
  · exact Memory.wf_reset

end Sys2Proof.Machine
end

section
/-! Every step keeps the consistency of the state. `ContentOk` is the part of it that does not speak of the protocol
of launch and completion: a completion keeps it from the state with the destinations written, and gives the rest
anew. -/

namespace Sys2Proof.Machine

variable {i : Instr} {s t u : State}

/-- The fields of `State.Consistent` on the results, records, buffers and tables. -/
structure State.ContentOk (s : State) : Prop where
  memory : s.mem.wf = true
  no_result : s.status.resultValid = false → s.buf BufId.out = [] ∧ s.sfCount = 0#32 ∧ s.sfLen = []
  run_flags : s.status.snapValid = true ∨ s.status.dbgValid = true ∨ s.status.clockAborted = true
      ∨ s.status.short = true → s.status.resultValid = true
  no_debug : s.status.dbgValid = false →
      s.dbg = DbgBank.reset ∧ s.dbgTlen = [] ∧ s.buf BufId.dbgTone = [] ∧ s.buf BufId.dbgPre = []
  no_special : s.status.specialValid = false → s.buf BufId.spoE = [] ∧ s.buf BufId.spoES = []
  table : s.sfLen.length = s.sfCount.toNat
  table_size : s.sfLen.length ≤ Config.maxSf
  tone_table : s.dbgTlen.length ≤ s.sfLen.length
  zone_table : ∀ t ∈ [s.exclLo, s.exclHi], t.length ≤ Config.maxExcl ∧ t.getLast? ≠ some (.rat 0)

/-- Only the codes 1 to 8 stand for a cause (60_exceptions.md R280). -/
theorem ErrCode.code_le (e : ErrCode) : e.code.toNat ≤ 8 := by cases e <;> decide

theorem ErrCode.code_ne_zero (e : ErrCode) : e.code ≠ 0#32 := by cases e <;> decide

theorem State.Consistent.content (h : s.Consistent) : s.ContentOk := { h with }

namespace State.ContentOk

/-- A buffer that is no output may take any content that fits. -/
theorem setBuf (h : s.ContentOk) {b : BufId} {a : List (Cx NUM)} (hb : b.val ≤ 6) (ha : a.length ≤ Config.bufMax) :
    (s.setBuf b a).ContentOk := by
  have keeps (c : BufId) (hc : 7 ≤ c.val) : (s.setBuf b a).buf c = s.buf c :=
    s.setBuf_buf_ne b c a fun e => by rw [e] at hb; omega
  exact { h with
    memory := s.setBuf_wf b a h.memory ha
    no_result := keeps BufId.out (by decide) ▸ h.no_result
    no_debug := keeps BufId.dbgTone (by decide) ▸ keeps BufId.dbgPre (by decide) ▸ h.no_debug
    no_special := keeps BufId.spoE (by decide) ▸ keeps BufId.spoES (by decide) ▸ h.no_special }

/-- A RUN that succeeds, after a launch that cleared the results, leaves tables of one entry per subframe, and a debug
record only with DBG_VALID (45_pipeline.md R220, R226). -/
theorem writeRun (h : s.ContentOk) (cleared : s.status.resultValid = false) {o : RunOut NUM}
    (ran : numArith.run s.cfg s.zones (s.buf BufId.cap) = .ok o) : (s.writeRun o).ContentOk := by
  obtain ⟨hstatus, hcount, hlen, -, hdbg, htlen⟩ := s.writeRun_fields o
  obtain ⟨-, -, -, -, -, -, hlo, hhi, -, -⟩ := s.writeRun_frame o
  have hframes : o.frames.length ≤ Config.maxSf := by
    obtain ⟨hn, hmax⟩ := numArith.run_frames ran
    exact hn.trans_le hmax
  have hvalid : (s.writeRun o).status.resultValid = true := by rw [hstatus]; rfl
  have hnodebug : s.status.dbgValid = false := by
    by_contra hd
    have := h.run_flags (.inr (.inl (eq_true_of_ne_false hd)))
    simp [cleared] at this
  obtain ⟨hdbg0, htlen0, htone0, hpre0⟩ := h.no_debug hnodebug
  exact {
    memory := State.writeRun_wf ran h.memory
    no_result := fun hv => by simp [hvalid] at hv
    run_flags := fun _ => hvalid
    no_debug := fun hv => by
      have hoff : s.cfg.debug = false := by simpa [hstatus, hnodebug] using hv
      rw [hdbg, htlen, State.writeRun_buf, State.writeRun_buf]
      simp [hoff, hdbg0, htlen0, htone0, hpre0, BufId.dbgTone, BufId.dbgPre, BufId.out]
    no_special := fun hv => by
      have hsp : s.status.specialValid = false := by simpa [hstatus] using hv
      rw [State.writeRun_buf, State.writeRun_buf]
      simpa [BufId.dbgTone, BufId.dbgPre, BufId.out, BufId.spoE, BufId.spoES] using h.no_special hsp
    table := by
      have := Config.maxSf_le
      rw [hlen, hcount, List.length_map, wordOf, BitVec.toNat_ofNat, Nat.mod_eq_of_lt (by omega)]
    table_size := by rwa [hlen, List.length_map]
    tone_table := by
      rw [htlen, hlen]
      split <;> simp [htlen0]
    zone_table := by rw [hlo, hhi]; exact h.zone_table }

/-- The outputs of SPECIAL stand with SPECIAL_VALID (46_special_dsp.md R240). -/
theorem writeSpecial (h : s.ContentOk) {y z : List (Cx NUM)} (hy : y.length ≤ Config.bufMax)
    (hz : z.length ≤ Config.bufMax) :
    (({ s with status := s.status.specialDone }.setBuf BufId.spoE y).setBuf BufId.spoES z).ContentOk := by
  have hw : Written .special s _ := .specialOutputs hy hz
  have keeps (c : BufId) (he : c ≠ BufId.spoE) (hes : c ≠ BufId.spoES) := hw.buf_eq (b := c) (not_or.mpr ⟨he, hes⟩)
  exact { h with
    memory := hw.mem_wf h.memory
    no_result := keeps BufId.out (by decide) (by decide) ▸ h.no_result
    no_debug := keeps BufId.dbgTone (by decide) (by decide) ▸ keeps BufId.dbgPre (by decide) (by decide) ▸ h.no_debug
    no_special := nofun }

/-- The launch of RUN leaves no result and no debug record (20_memory.md R66). -/
theorem clearForRun (h : s.ContentOk) : s.clearForRun.ContentOk := { h with
  memory := s.clearForRun_wf h.memory
  no_result := fun _ => ⟨by simp [State.clearForRun_buf], rfl, rfl⟩
  run_flags := nofun
  no_debug := fun _ => ⟨rfl, rfl, by simp [State.clearForRun_buf], by simp [State.clearForRun_buf]⟩
  no_special := fun hv => by
    simpa [State.clearForRun_buf, BufId.dbgTone, BufId.dbgPre, BufId.out, BufId.spoE, BufId.spoES]
      using h.no_special hv
  table := rfl
  table_size := Nat.zero_le _
  tone_table := Nat.zero_le _ }

/-- The launch of SPECIAL leaves no special output (R66). -/
theorem clearForSpecial (h : s.ContentOk) : s.clearForSpecial.ContentOk := { h with
  memory := s.clearForSpecial_wf h.memory
  no_result := fun hv => by
    simpa [State.clearForSpecial_buf, BufId.out, BufId.spoE, BufId.spoES] using h.no_result hv
  no_debug := fun hv => by
    simpa [State.clearForSpecial_buf, BufId.dbgTone, BufId.dbgPre, BufId.spoE, BufId.spoES] using h.no_debug hv
  no_special := fun _ => by simp [State.clearForSpecial_buf] }

/-- The launch itself, after the clears of its command (R66). -/
theorem launched (h : s.ContentOk) (hcode : s.errCode.toNat ≤ 8) {w : Word}
    (hrun : decode w = .ok .run → s.status.resultValid = false)
    (hspecial : decode w = .ok .special → s.status.specialValid = false) :
    { s with latch := w, status := s.status.launched }.Consistent := { h with
  busy_clear := fun _ => ⟨rfl, rfl⟩
  done_or_err := nofun
  err_sticky := nofun
  err_code := hcode
  err_code_err := nofun
  done_code := nofun
  latch_idle := nofun
  run_latched := fun _ => hrun
  special_latched := fun _ => hspecial }

/-- A failure gives a consistent state, when DONE is clear as the launch left it (60_exceptions.md R284). -/
theorem fail (h : s.ContentOk) (hdone : s.status.done = false) (e : ErrCode) : (s.fail e).Consistent := { h with
  busy_clear := nofun
  done_or_err := fun hd => by simp [hdone] at hd
  err_sticky := fun _ => rfl
  err_code := e.code_le
  err_code_err := fun _ => e.code_ne_zero
  done_code := fun hd => by simp [hdone] at hd
  latch_idle := fun _ => rfl
  run_latched := nofun
  special_latched := nofun }

/-- A success gives a consistent state, when ERR is clear as the launch left it (20_memory.md R67). -/
theorem succeed (h : u.ContentOk) (herr : u.status.err = false) : u.succeed.Consistent := { h with
  busy_clear := nofun
  done_or_err := fun hd => by simp [herr] at hd
  err_sticky := fun he => by simp [herr] at he
  err_code := Nat.zero_le _
  err_code_err := fun he => by simp [herr] at he
  done_code := fun _ => rfl
  latch_idle := fun _ => rfl
  run_latched := nofun
  special_latched := nofun }

end State.ContentOk

/-- What a command writes keeps the content, when the launch of a RUN has cleared the results. -/
theorem Written.contentOk (hw : Written i s u) (h : s.ContentOk) (hrun : i = .run → s.status.resultValid = false) :
    u.ContentOk := by
  cases hw with
  | nothing => exact h
  | acknowledged | results => exact { h with }
  | workBuffer _ work fits => exact h.setBuf work.2 (fits h.memory)
  | runOutputs ran => exact h.writeRun (hrun rfl) ran
  | specialOutputs fitsE fitsES => exact h.writeSpecial fitsE fitsES

/-- The reset state is consistent, whatever the environment does next. -/
theorem State.resetBlock_consistent (s : State) : s.resetBlock.Consistent where
  memory := Memory.wf_reset
  busy_clear := nofun
  done_or_err := nofun
  err_sticky := nofun
  err_code := Nat.zero_le _
  err_code_err := nofun
  done_code := nofun
  latch_idle := fun _ => rfl
  no_result := fun _ => ⟨s.resetBlock_buf _, rfl, rfl⟩
  run_flags := nofun
  no_debug := fun _ => ⟨rfl, rfl, s.resetBlock_buf _, s.resetBlock_buf _⟩
  no_special := fun _ => ⟨s.resetBlock_buf _, s.resetBlock_buf _⟩
  run_latched := nofun
  special_latched := nofun
  table := rfl
  table_size := Nat.zero_le _
  tone_table := Nat.zero_le _
  zone_table := by simp [State.reset]

/-- An entry of the exclusion-zone table, written within its MAX_EXCL entries (10_state.md R29). -/
theorem tableSet_form {t : List NUM} (ht : t.length ≤ Config.maxExcl ∧ t.getLast? ≠ some (.rat 0))
    (j : Fin Config.maxExcl) (x : NUM) :
    (tableSet t j.val x).length ≤ Config.maxExcl ∧ (tableSet t j.val x).getLast? ≠ some (.rat 0) :=
  ⟨tableSet_length t j.val x ht.1 j.isLt, tableSet_last t j.val x⟩

/-! The block's turn. -/

theorem exec_consistent (h : s.Consistent) (busy : s.status.busy = true) (hd : decode s.latch = .ok i)
    (hx : exec i s = .next t) : t.Consistent := by
  obtain ⟨hdone, herr⟩ := h.busy_clear busy
  obtain ⟨-, rfl⟩ | ⟨-, e, rfl⟩ | ⟨-, u, hw, rfl⟩ := exec_cases hx
  · exact s.resetBlock_consistent
  · exact h.content.fail hdone e
  · exact (hw.contentOk h.content fun hi => h.run_latched busy (hi ▸ hd)).succeed (hw.err_eq.trans herr)

theorem blockStep_consistent (h : s.Consistent) (hx : blockStep s = .next t) : t.Consistent := by
  obtain ⟨-, rfl⟩ | ⟨busy, i, hd, hx⟩ | ⟨busy, rfl⟩ := blockStep_cases hx
  · exact h
  · exact exec_consistent h busy hd hx
  · exact h.content.fail (h.busy_clear busy).1 _

/-! The host. -/

namespace State.Consistent

/-- Consistency does not speak of the environment. -/
theorem environment (h : s.Consistent) (rest : List Event) (v : HostAnswer) :
    { s with agenda := rest, answer := v }.Consistent := { h with }

theorem refuse (h : s.Consistent) : s.refuse.Consistent := { h with }

theorem setBuf (h : s.Consistent) {b : BufId} {a : List (Cx NUM)} (hb : b.val ≤ 6) (ha : a.length ≤ Config.bufMax) :
    (s.setBuf b a).Consistent := { h.content.setBuf hb ha, h with }

theorem writeLen (h : s.Consistent) {b : BufId} (hb : b.val ≤ 6) (w : Word) : (s.writeLen b w).Consistent := by
  unfold State.writeLen
  split
  · exact h.setBuf hb (by rwa [resize_length])
  · exact h.refuse

theorem writeSnap (h : s.Consistent) (b : SnapBank NUM) : (s.writeSnap b).Consistent :=
  { h with run_flags := fun hf => h.run_flags (.inr (hf.resolve_left nofun)) }

theorem launch (h : s.Consistent) (w : Word) : (s.launch w).Consistent := by
  obtain ⟨hd, he⟩ | ⟨hd, he⟩ | ⟨hrun, hspecial, he⟩ := s.launch_cases w <;> rw [he]
  · exact h.content.clearForRun.launched h.err_code (fun _ => rfl) (fun hd' => by simp [hd] at hd')
  · exact h.content.clearForSpecial.launched h.err_code (fun hd' => by simp [hd] at hd') (fun _ => rfl)
  · exact h.content.launched h.err_code (fun hd => absurd hd hrun) (fun hd => absurd hd hspecial)

/-- A write of a register that the host may write: CMD launches, SNAP clears SNAP_VALID, LEN and the zones are kept
within bounds, and consistency does not speak of the other registers (20_memory.md R65). -/
theorem regWrite_permitted (h : s.Consistent) (w : Word) (x : NUM) (r : Reg) (hr : r.access ≠ .readOnly) :
    (r.write s w x).Consistent := by
  have hlo := h.zone_table s.exclLo (by simp)
  have hhi := h.zone_table s.exclHi (by simp)
  cases r with
  | cmd => exact h.launch w
  | len b =>
    refine h.writeLen (by_contra fun hb => hr ?_) w
    simp [Reg.access, BufId.hostWritable, hb]
  | exclLo j => exact { h with zone_table := by simpa [Reg.write] using ⟨tableSet_form hlo j x, hhi⟩ }
  | exclHi j => exact { h with zone_table := by simpa [Reg.write] using ⟨hlo, tableSet_form hhi j x⟩ }
  | snapSymbolRate | snapEquiRate | snapRollOff | snapFreqShift | snapSchema => exact h.writeSnap _
  | _ => exact { h with }

theorem regWrite (h : s.Consistent) (n : ℕ) (w : Word) (x : NUM) : (s.regWrite n w x).Consistent := by
  obtain he | ⟨r, -, hr, he⟩ := s.regWrite_cases n w x <;> rw [he]
  · exact h.refuse
  · exact h.regWrite_permitted w x r hr

/-- A read that is answered or refused. -/
theorem ofRead (h : s.Consistent) (ht : ∃ v, t = { s with answer := v } ∨ t = { s.refuse with answer := v }) :
    t.Consistent := by
  obtain ⟨v, rfl | rfl⟩ := ht
  · exact h.environment _ v
  · exact h.refuse.environment _ v

theorem hostAccess (h : s.Consistent) (a : HostAction) : (s.hostAccess a).Consistent := by
  cases a with
  | regRead n => exact h.ofRead (s.regRead_cases n)
  | regWrite n w x => exact h.regWrite n w x
  | regCopy n => exact h.regWrite n _ _
  | bufRead b j => exact h.ofRead (s.bufRead_cases b j)
  | bufWrite b j v =>
    change (s.bufWrite b j v).Consistent
    obtain he | ⟨c, hc, he⟩ := s.bufWrite_cases b j v <;> rw [he]
    · exact h.refuse
    · exact h.setBuf hc (by rw [List.length_set]; exact State.buf_length_le h.memory c)

theorem poll (h : s.Consistent) : s.poll.Consistent := by
  obtain ⟨rest, hp⟩ := s.poll_eq
  rw [hp]
  exact (h.hostAccess _).environment rest _

end State.Consistent

/-- Settles O8: the block's turn, a host access, a poll and the reset each keep consistency. -/
theorem consistentStep : Obligations.ConsistentStep := by
  intro s t h hstep
  have htaken : s.taken.Consistent := h.environment _ s.answer
  obtain hx | ⟨a, rfl⟩ | rfl | rfl := step_cases hstep
  · exact blockStep_consistent htaken hx
  · exact htaken.hostAccess a
  · exact htaken.poll
  · exact s.taken.resetBlock_consistent

end Sys2Proof.Machine
end

section
/-! A write of a length register (10_state.md R33). -/

namespace Sys2Proof.Machine

/-- The length registers stand at 0xC0 to 0xCB (R33). -/
theorem regAt_len (b : BufId) : regAt (0xC0 + b.val) = some (.len b) := by
  have hb := b.isLt
  unfold regAt
  rw [dif_neg (by omega), dif_neg (by omega), dif_neg (by omega), dif_pos (by omega)]
  simp only [Nat.add_sub_cancel_left]

/-- Old elements stay, new ones are 0. -/
theorem resize_getElem? (a : List (Cx NUM)) {n i : ℕ} (hi : i < n) :
    (resize a n)[i]? = some (a.getD i ⟨.rat 0, .rat 0⟩) := by
  unfold resize
  by_cases ha : i < a.length
  · rw [List.getElem?_append_left (by rw [List.length_take]; omega), List.getElem?_take_of_lt hi,
      List.getElem?_eq_getElem ha, List.getD_eq_getElem _ _ ha]
  · rw [List.getElem?_append_right (by rw [List.length_take]; omega), List.getD_eq_default _ _ (by omega),
      List.getElem?_replicate, if_pos (by rw [List.length_take]; omega)]

/-- While no command runs, a write of LEN[b] is refused for a buffer that the host may not write, and else the write
of R33. -/
theorem State.regWrite_len {s : State} (idle : s.status.busy = false) (b : BufId) (w : Word) (x : NUM) :
    s.hostAccess (.regWrite (0xC0 + b.val) w x) = if b.val ≤ 6 then s.writeLen b w else s.refuse := by
  simp only [State.hostAccess, State.regWrite, regAt_len, idle, Reg.access, BufId.hostWritable]
  by_cases hb : b.val ≤ 6 <;> simp [hb, Reg.write]

theorem State.writeLen_of_le (s : State) (b : BufId) {w : Word} (hw : w.toNat ≤ Config.bufMax) :
    s.writeLen b w = s.setBuf b (resize (s.buf b) w.toNat) := if_pos hw

theorem State.writeLen_of_gt (s : State) (b : BufId) {w : Word} (hw : Config.bufMax < w.toNat) :
    s.writeLen b w = s.refuse := if_neg (not_le.mpr hw)

/-- Settles O55: a permitted write is `resize` of one buffer, every other is refused. -/
theorem lengthWrite : Obligations.LengthWrite := by
  intro s b w x idle
  rw [State.regWrite_len idle]
  refine ⟨fun hb hw => ?_, fun h => ?_⟩
  · rw [if_pos hb, s.writeLen_of_le b hw, State.setBuf_buf_self]
    exact ⟨resize_length _ _, fun i hi => resize_getElem? _ hi, fun c hc => s.setBuf_buf_ne b c _ hc.symm, rfl⟩
  · split
    · rw [s.writeLen_of_gt b (h.resolve_left (by omega))]
      rfl
    · rfl

end Sys2Proof.Machine
end

section
/-! The register map (20_memory.md R71): the numbers of the registers and `regAt` are inverse to each other. -/

namespace Sys2Proof.Machine

/-- Below the length registers, the register with a number of its own is looked up. -/
theorem regAt_of_lt {n : ℕ} (hn : n < 0xC0) : regAt n = plainRegs.find? (fun r => r.number == n) := by
  unfold regAt
  rw [dif_neg (by omega), dif_neg (by omega), dif_neg (by omega), dif_neg (by omega)]

/-- The registers with a number of their own are found at it: the numbers are below 0xC0 and differ. -/
theorem regAt_plain {r : Reg} (hr : r ∈ plainRegs) : regAt r.number = some r := by
  have below : ∀ r ∈ plainRegs, r.number < 0xC0 := by decide
  have found : ∀ r ∈ plainRegs, plainRegs.find? (fun q => q.number == r.number) = some r := by decide
  rw [regAt_of_lt (below r hr), found r hr]

theorem regAt_exclLo (i : Fin Config.maxExcl) : regAt (0x100 + 2 * i.val) = some (.exclLo i) := by
  have := Config.maxExcl_le
  have hi := i.isLt
  unfold regAt
  rw [dif_neg (by omega), dif_neg (by omega), dif_pos (by omega), if_pos (by omega)]
  simp only [Nat.add_sub_cancel_left, Nat.mul_div_cancel_left _ Nat.two_pos]

theorem regAt_exclHi (i : Fin Config.maxExcl) : regAt (0x101 + 2 * i.val) = some (.exclHi i) := by
  have := Config.maxExcl_le
  have hi := i.isLt
  have half : (0x101 + 2 * i.val - 0x100) / 2 = i.val := by omega
  unfold regAt
  rw [dif_neg (by omega), dif_neg (by omega), dif_pos (by omega), if_neg (by omega)]
  simp only [half]

theorem regAt_sfLen (j : Fin Config.maxSf) : regAt (0x1000 + j.val) = some (.sfLen j) := by
  have := Config.maxSf_le
  have hj := j.isLt
  unfold regAt
  rw [dif_neg (by omega), dif_pos (by omega)]
  simp only [Nat.add_sub_cancel_left]

theorem regAt_dbgTlen (j : Fin Config.maxSf) : regAt (0x2000 + j.val) = some (.dbgTlen j) := by
  have hj := j.isLt
  unfold regAt
  rw [dif_pos (by omega)]
  simp only [Nat.add_sub_cancel_left]

/-- Every register stands at its number. -/
theorem regAt_number (r : Reg) : regAt r.number = some r := by
  cases r with
  | len b => exact regAt_len b
  | exclLo i => exact regAt_exclLo i
  | exclHi i => exact regAt_exclHi i
  | sfLen j => exact regAt_sfLen j
  | dbgTlen j => exact regAt_dbgTlen j
  | _ => exact regAt_plain (by decide)

/-- What stands at a number has that number. -/
theorem number_of_regAt {n : ℕ} {r : Reg} (h : regAt n = some r) : r.number = n := by
  unfold regAt at h
  split at h
  next hn => cases h; exact Nat.add_sub_cancel' hn.1
  split at h
  next hn => cases h; exact Nat.add_sub_cancel' hn.1
  split at h
  next hn =>
    split at h <;> cases h <;> simp only [Reg.number] <;> omega
  split at h
  next hn => cases h; exact Nat.add_sub_cancel' hn.1
  simpa using List.find?_some h

theorem regAt_eq_some_iff {n : ℕ} {r : Reg} : regAt n = some r ↔ r.number = n :=
  ⟨number_of_regAt, fun h => h ▸ regAt_number r⟩

theorem Reg.number_injective {r r' : Reg} (h : r.number = r'.number) : r = r' := by
  have found := regAt_number r
  rw [h, regAt_number] at found
  exact (Option.some.inj found).symm

theorem regAt_ne_none_iff {n : ℕ} : regAt n ≠ none ↔ ∃ r : Reg, r.number = n := by
  simp only [Option.ne_none_iff_exists', regAt_eq_some_iff]

/-- The numbers of the registers that have one of their own. -/
theorem plainRegs_numbers (n : ℕ) : (∃ r ∈ plainRegs, r.number = n) ↔
    n ≤ 0x04 ∨ (0x10 ≤ n ∧ n ≤ 0x15) ∨ (0x20 ≤ n ∧ n ≤ 0x23) ∨ (0x40 ≤ n ∧ n ≤ 0x57)
      ∨ (0x80 ≤ n ∧ n ≤ 0x84) ∨ (0x90 ≤ n ∧ n ≤ 0x99) ∨ n = 0xA0 := by
  constructor
  · rintro ⟨r, hr, rfl⟩
    revert r
    decide
  · intro hn
    have low : n < 0xA1 := by omega
    revert hn
    revert n
    decide +kernel

/-- The implemented numbers are those of the plain registers and the five tables (R71). -/
theorem exists_number_iff (n : ℕ) : (∃ r : Reg, r.number = n) ↔
    (∃ r ∈ plainRegs, r.number = n) ∨ (0xC0 ≤ n ∧ n ≤ 0xCB)
      ∨ (0x100 ≤ n ∧ n < 0x100 + 2 * Config.maxExcl) ∨ (0x1000 ≤ n ∧ n < 0x1000 + Config.maxSf)
      ∨ (0x2000 ≤ n ∧ n < 0x2000 + Config.maxSf) := by
  constructor
  · rintro ⟨r, rfl⟩
    cases r with
    | len b => have := b.isLt; simp only [Reg.number]; omega
    | exclLo i => have := i.isLt; simp only [Reg.number]; omega
    | exclHi i => have := i.isLt; simp only [Reg.number]; omega
    | sfLen j => have := j.isLt; simp only [Reg.number]; omega
    | dbgTlen j => have := j.isLt; simp only [Reg.number]; omega
    | _ => exact .inl ⟨_, by decide, rfl⟩
  · rintro (⟨r, -, h⟩ | h | h | h | h)
    · exact ⟨r, h⟩
    · exact ⟨.len ⟨n - 0xC0, by omega⟩, Nat.add_sub_cancel' h.1⟩
    · obtain even | odd := Nat.mod_two_eq_zero_or_one n
      · exact ⟨.exclLo ⟨(n - 0x100) / 2, by omega⟩, by simp only [Reg.number]; omega⟩
      · exact ⟨.exclHi ⟨(n - 0x100) / 2, by omega⟩, by simp only [Reg.number]; omega⟩
    · exact ⟨.sfLen ⟨n - 0x1000, by omega⟩, Nat.add_sub_cancel' h.1⟩
    · exact ⟨.dbgTlen ⟨n - 0x2000, by omega⟩, Nat.add_sub_cancel' h.1⟩

/-- Settles O51: `regAt` is the inverse of the numbering, and the numbers are those of the tables. -/
theorem registerMap : Obligations.RegisterMap := by
  refine ⟨regAt_number, fun _ _ => number_of_regAt, fun n => ?_, Config.bufMax_ge, Config.bufMax_lt, Config.maxExcl_le,
    Config.maxSf_pos, Config.maxSf_le, by decide, by decide, by decide, fun _ => rfl, fun _ => ⟨rfl, rfl⟩,
    fun _ => ⟨rfl, rfl⟩⟩
  rw [regAt_ne_none_iff, exists_number_iff, plainRegs_numbers]
  simp only [or_assoc]

end Sys2Proof.Machine
end

section
/-! A decoded word is the word that was encoded (30_encoding.md R80 to R86). -/

namespace Sys2Proof

/-- The unused buffer fields of a format hold 0 (R81). -/
def Format.fits (f : Format) (bd bs bt : ℕ) : Prop :=
  match f with
  | .z => bd = 0 ∧ bs = 0 ∧ bt = 0
  | .s => bd = 0 ∧ bt = 0
  | .d => bs = 0 ∧ bt = 0
  | .ds => bt = 0
  | .dst => True

/-- A mask that lets the bits from `lo` to `hi - 1` through unread leaves, of a word below `2 ^ hi`, its part below
`2 ^ lo`. -/
theorem and_mask_of_lt {w : Word} {lo hi : ℕ} (hw : w.toNat < 2 ^ hi) :
    w &&& (BitVec.ofNat 32 (2 ^ lo - 1) ||| BitVec.allOnes 32 <<< hi) = BitVec.ofNat 32 (w.toNat % 2 ^ lo) := by
  refine BitVec.eq_of_getLsbD_eq fun i hi32 => ?_
  have high : hi ≤ i → w.getLsbD i = false := fun h =>
    Nat.testBit_lt_two_pow (hw.trans_le (Nat.pow_le_pow_right Nat.two_pos h))
  rw [BitVec.getLsbD_and, BitVec.getLsbD_or, BitVec.getLsbD_shiftLeft, BitVec.getLsbD_allOnes, BitVec.getLsbD_ofNat,
    BitVec.getLsbD_ofNat, Nat.testBit_two_pow_sub_one, Nat.testBit_mod_two_pow, BitVec.testBit_toNat]
  by_cases h : hi ≤ i
  · simp [high h]
  · simp [hi32, not_le.mp h, Bool.and_comm]

/-- The mask of a format keeps the opcode of a word that fits the format (R81). -/
theorem commandWord_and_mask (f : Format) {op bd bs bt : ℕ} (hop : op < 2 ^ 8) (hd : bd < 12) (hs : bs < 12)
    (ht : bt < 12) (fits : f.fits bd bs bt) :
    commandWord op bd bs bt &&& f.mask = BitVec.ofNat 32 op := by
  have hw : (commandWord op bd bs bt).toNat = op + bd * 2 ^ 8 + bs * 2 ^ 12 + bt * 2 ^ 16 :=
    Nat.mod_eq_of_lt (by omega)
  have between {lo hi : ℕ} (hmask : f.mask = BitVec.ofNat 32 (2 ^ lo - 1) ||| BitVec.allOnes 32 <<< hi)
      (below : op + bd * 2 ^ 8 + bs * 2 ^ 12 + bt * 2 ^ 16 < 2 ^ hi)
      (low : (op + bd * 2 ^ 8 + bs * 2 ^ 12 + bt * 2 ^ 16) % 2 ^ lo = op) :
      commandWord op bd bs bt &&& f.mask = BitVec.ofNat 32 op := by
    rw [hmask, and_mask_of_lt (hw ▸ below), hw, low]
  cases f <;> simp only [Format.fits] at fits
  case z => exact between (lo := 8) (hi := 8) (by decide) (by omega) (by omega)
  case s => exact between (lo := 12) (hi := 16) (by decide) (by omega) (by omega)
  case d => exact between (lo := 8) (hi := 12) (by decide) (by omega) (by omega)
  case ds => exact between (lo := 8) (hi := 16) (by decide) (by omega) (by omega)
  case dst => exact between (lo := 8) (hi := 20) (by decide) (by omega) (by omega)

/-- A word that a row selects has the row's code in its low byte: no mask hides the opcode (R81). -/
theorem OpcodeRow.code_of_selects {r : OpcodeRow} (hr : r ∈ opcodeMap) {w : Word} (h : r.selects w = true) :
    w &&& 0xFF#32 = r.code := by
  have hmask : r.format.mask &&& 0xFF#32 = 0xFF#32 := by cases r.format <;> decide
  have hcode : ∀ r ∈ opcodeMap, r.code &&& 0xFF#32 = r.code := by decide
  have hsel : w &&& r.format.mask = r.code := by simpa [OpcodeRow.selects] using h
  rw [← hcode r hr, ← hsel, BitVec.and_assoc, hmask]

/-- The codes of the opcode map differ, so a row that selects a word is the one that the decoder finds (R86). -/
theorem find_row_of_selects {r : OpcodeRow} (hr : r ∈ opcodeMap) {w : Word} (h : r.selects w = true) :
    opcodeMap.find? (fun q => q.selects w) = some r := by
  obtain ⟨q, hq⟩ : ∃ q, opcodeMap.find? (fun q => q.selects w) = some q :=
    Option.isSome_iff_exists.mp (List.find?_isSome.mpr ⟨r, hr, h⟩)
  have hmem : q ∈ opcodeMap := List.mem_of_find?_eq_some hq
  have hsel : q.selects w = true := by simpa using List.find?_some hq
  have hcode : q.code = r.code :=
    (OpcodeRow.code_of_selects hmem hsel).symm.trans (OpcodeRow.code_of_selects hr h)
  have distinct : (opcodeMap.map OpcodeRow.code).Nodup := by decide
  rw [hq, List.inj_on_of_nodup_map distinct hmem hr hcode]

theorem bufferNumber_val (b : BufId) : bufferNumber b.val = some b := dif_pos b.isLt

/-- A word put together from a row's code and buffers that fit the row's format decodes to the row's command. -/
theorem decode_row {r : OpcodeRow} (hr : r ∈ opcodeMap) (bd bs bt : BufId)
    (fits : r.format.fits bd.val bs.val bt.val) :
    decode (commandWord r.code.toNat bd.val bs.val bt.val) = .ok (r.build bd bs bt) := by
  have small : ∀ r ∈ opcodeMap, r.code.toNat < 2 ^ 8 := by decide
  have hop := small r hr
  have selected : r.selects (commandWord r.code.toNat bd.val bs.val bt.val) = true := by
    rw [OpcodeRow.selects, commandWord_and_mask r.format hop bd.isLt bs.isLt bt.isLt fits]
    simp
  obtain ⟨-, hbd, hbs, hbt⟩ := Laws.EncodedFields.commandWord_fields r.code.toNat hop bd bs bt
  simp only [decode, find_row_of_selects hr selected, hbd, hbs, hbt, bufferNumber_val]

/-- Decoding gives back the command that was encoded: each command is built by its row of the opcode map (R86). -/
theorem decode_encode (i : Instr) : decode (encode i) = .ok i := by
  have row {k : ℕ} (hk : k < opcodeMap.length) (bd bs bt : BufId) := decode_row (List.getElem_mem hk) bd bs bt
  cases i with
  | nop => exact row (k := 0) (by decide) 0 0 0 ⟨rfl, rfl, rfl⟩
  | clrerr => exact row (k := 1) (by decide) 0 0 0 ⟨rfl, rfl, rfl⟩
  | sreset => exact row (k := 2) (by decide) 0 0 0 ⟨rfl, rfl, rfl⟩
  | downsample bd bs => exact row (k := 3) (by decide) bd bs 0 rfl
  | bestpoint bs => exact row (k := 4) (by decide) 0 bs 0 ⟨rfl, rfl⟩
  | zcgen bd => exact row (k := 5) (by decide) bd 0 0 ⟨rfl, rfl⟩
  | sync bs => exact row (k := 6) (by decide) 0 bs 0 ⟨rfl, rfl⟩
  | find1 bs => exact row (k := 7) (by decide) 0 bs 0 ⟨rfl, rfl⟩
  | find2 bs => exact row (k := 8) (by decide) 0 bs 0 ⟨rfl, rfl⟩
  | tone bd bs => exact row (k := 9) (by decide) bd bs 0 rfl
  | eqrate bs => exact row (k := 10) (by decide) 0 bs 0 ⟨rfl, rfl⟩
  | phnoise bd bs => exact row (k := 11) (by decide) bd bs 0 rfl
  | phcorr bd bs bt => exact row (k := 12) (by decide) bd bs bt trivial
  | fshift bd bs => exact row (k := 13) (by decide) bd bs 0 rfl
  | mfilt bd bs => exact row (k := 14) (by decide) bd bs 0 rfl
  | run => exact row (k := 15) (by decide) 0 0 0 ⟨rfl, rfl, rfl⟩
  | special => exact row (k := 16) (by decide) 0 0 0 ⟨rfl, rfl, rfl⟩

end Sys2Proof
end

section
/-! The launch by a write of CMD (20_memory.md R66), and the steps that run the launched command (R67). -/

namespace Sys2Proof.Machine

variable {s : State}

/-- While no command runs, a write of a register that is not read-only is the write of that register (R65). -/
theorem State.hostAccess_write (idle : s.status.busy = false) {r : Reg} (hr : r.access ≠ .readOnly) (w : Word)
    (x : NUM) : s.hostAccess (.regWrite r.number w x) = r.write s w x := by
  simp [State.hostAccess, State.regWrite, regAt_number, idle, hr]

/-- While no command runs, a write of CMD is the launch of the word (R66). -/
theorem State.hostAccess_cmd (idle : s.status.busy = false) (w : Word) (x : NUM) :
    s.hostAccess (.regWrite 0x01 w x) = s.launch w :=
  State.hostAccess_write idle (r := .cmd) (by decide) w x

@[simp] theorem State.launch_busy (s : State) (w : Word) : (s.launch w).status.busy = true := rfl
@[simp] theorem State.launch_latch (s : State) (w : Word) : (s.launch w).latch = w := rfl

@[simp] theorem State.launch_agenda (s : State) (w : Word) : (s.launch w).agenda = s.agenda := by
  obtain ⟨-, h⟩ | ⟨-, h⟩ | ⟨-, -, h⟩ := s.launch_cases w <;> rw [h]
  · exact s.clearForRun_agenda
  · exact s.clearForSpecial_agenda

/-- The launch does not look at the environment's agenda. -/
theorem State.launch_withAgenda (s : State) (w : Word) (rest : List Event) :
    { s with agenda := rest }.launch w = { s.launch w with agenda := rest } := by
  unfold State.launch State.launchClears
  split <;> rfl

/-- Settles O14: the three cases of a launch, field by field. -/
theorem launchEffect : Obligations.LaunchEffect := by
  intro s w x idle
  rw [State.hostAccess_cmd idle]
  obtain ⟨hd, h⟩ | ⟨hd, h⟩ | ⟨hrun, hspecial, h⟩ := s.launch_cases w
  · refine ⟨fun hrun => absurd hd hrun, fun _ => ⟨_, h, ?_⟩, fun hd' => by simp [hd] at hd'⟩
    exact ⟨rfl, rfl, rfl, rfl, fun _ => ⟨rfl, rfl⟩, s.clearForRun_buf, rfl⟩
  · refine ⟨fun _ hspecial => absurd hd hspecial, fun hd' => by simp [hd] at hd', fun _ => ⟨_, h, ?_⟩⟩
    exact ⟨rfl, rfl, s.clearForSpecial_buf, rfl⟩
  · exact ⟨fun _ _ => h, fun hd => absurd hd hrun, fun hd => absurd hd hspecial⟩

/-! The block's turn, the host's turn and a poll, one equation each. -/

theorem blockStep_busy {i : Instr} (busy : s.status.busy = true) (hd : decode s.latch = .ok i) :
    blockStep s = exec i s := by
  simp [blockStep, busy, hd]

theorem blockStep_idle (idle : s.status.busy = false) : blockStep s = .next s := by
  simp [blockStep, idle]

theorem step_of_nil (h : s.agenda = []) : step s = blockStep s := by
  simp [step, h]

theorem step_of_blockTurn {rest : List Event} (h : s.agenda = .blockTurn :: rest) :
    step s = blockStep { s with agenda := rest } := by
  simp [step, h]

theorem step_of_host {a : HostAction} {rest : List Event} (h : s.agenda = .host a :: rest) :
    step s = .next ({ s with agenda := rest }.hostAccess a) := by
  simp [step, h]

theorem step_of_wait {rest : List Event} (h : s.agenda = .wait :: rest) :
    step s = .next { s with agenda := rest }.poll := by
  simp [step, h]

/-- Settles O4: the equations of `step` and of `blockStep`, put together. -/
theorem stepRunsCommand : Obligations.StepRunsCommand := by
  refine ⟨fun s i ha busy hd => ?_, fun s i rest ha busy hd => ?_, fun s ha idle => ?_, fun s rest ha idle => ?_⟩
  · rw [step_of_nil ha, blockStep_busy busy hd]
  · rw [step_of_blockTurn ha]
    exact blockStep_busy busy hd
  · rw [step_of_nil ha, blockStep_idle idle]
  · rw [step_of_blockTurn ha]
    exact blockStep_idle idle

/-- STATUS can be read at all times (R64). -/
theorem State.regRead_status (s : State) :
    s.regRead Reg.status.number = { s with answer := .word s.status.word } := by
  simp [State.regRead, regAt_number, Reg.readableWhileBusy, Reg.read]

/-- A poll that reads BUSY = 1 gives the block its turn and polls again (30_encoding.md R91; log 3). -/
theorem State.poll_busy (busy : s.status.busy = true) :
    s.poll = { s with answer := .word s.status.word, agenda := .blockTurn :: .wait :: s.agenda } := by
  simp [State.poll, State.regRead_status, busy]

/-- A poll that reads BUSY = 0 ends the wait. -/
theorem State.poll_idle (idle : s.status.busy = false) : s.poll = { s with answer := .word s.status.word } := by
  simp [State.poll, State.regRead_status, idle]

/-- The host's write of a command's word, taken from the agenda, is the launch with the agenda that follows. -/
theorem step_commandWrite {w : Word} {x : NUM} {rest : List Event} (idle : s.status.busy = false)
    (h : s.agenda = .host (.regWrite 0x01 w x) :: rest) : step s = .next ({ s with agenda := rest }.launch w) := by
  rw [step_of_host h]
  exact congrArg _ (State.hostAccess_cmd (s := { s with agenda := rest }) idle w x)

/-- The block's turn runs the command whose word is latched. -/
theorem step_runs_latched {i : Instr} {rest : List Event} (h : s.agenda = .blockTurn :: rest)
    (busy : s.status.busy = true) (latched : s.latch = encode i) : step s = exec i { s with agenda := rest } := by
  rw [step_of_blockTurn h]
  exact blockStep_busy busy (latched ▸ decode_encode i)

/-- Settles O7: the launch, the poll in between, and the block's turn on the latched word. -/
theorem commandWriteRuns : Obligations.CommandWriteRuns := by
  refine ⟨?_, ?_, fun s rest idle ha => ?_⟩
  · rintro s u i x rest idle ha rfl
    refine ⟨_, step_commandWrite idle ha, ?_, rfl⟩
    rw [step_runs_latched (State.launch_agenda _ _) (State.launch_busy _ _) (State.launch_latch _ _),
      ← State.launch_withAgenda]
  · rintro s u i x rest idle ha hu
    have busy : u.status.busy = true := hu ▸ State.launch_busy _ _
    have latched : u.latch = encode i := hu ▸ State.launch_latch _ _
    have agenda : u.agenda = .wait :: rest := by rw [hu, State.launch_agenda]
    have polled : step u = .next { u with
        answer := .word u.status.word, agenda := .blockTurn :: .wait :: rest } := by
      rw [step_of_wait agenda, State.poll_busy (s := { u with agenda := rest }) busy]
    refine ⟨u, _, hu ▸ step_commandWrite idle ha, polled, rfl, ?_, ?_, latched⟩
    · rw [Status.word_getLsbD]
      exact busy
    · rw [agenda]
      exact step_runs_latched rfl busy latched
  · rw [step_of_wait ha]
    exact congrArg _ (State.poll_idle (s := { s with agenda := rest }) idle)

end Sys2Proof.Machine
end

section
/-! Completion without error (20_memory.md R67). -/

namespace Sys2Proof.Machine

/-- ERRINFO is kept by every write of a command but CLRERR's (10_state.md R24, 47_system.md R251). -/
theorem Written.errInfo_eq {i : Instr} {s u : State} (h : Written i s u) (hi : i ≠ .clrerr) :
    u.errInfo = s.errInfo := by
  cases h with
  | acknowledged => exact absurd rfl hi
  | runOutputs =>
    obtain ⟨-, herr, -⟩ := s.writeRun_frame _
    exact herr
  | _ => rfl

/-- Settles O16: what ends without ERR is the success update after the command's writes. -/
theorem successUpdate : Obligations.SuccessUpdate := by
  intro i s t hi busy herr hx ht
  obtain ⟨rfl, -⟩ | ⟨-, e, rfl⟩ | ⟨-, u, hw, rfl⟩ := exec_cases hx
  · exact absurd rfl hi
  · simp at ht
  · exact ⟨rfl, rfl, rfl, rfl, hw.errInfo_eq⟩

end Sys2Proof.Machine
end

section
/-! The host's reads (20_memory.md R62, R64, R68): answered while no command runs, and refused while one does but for
the registers 0x00 to 0x04. -/

namespace Sys2Proof.Machine

variable {s : State}

/-- The registers that can be read while a command runs are those at 0x00 to 0x04 (R64). -/
theorem Reg.readableWhileBusy_iff (r : Reg) : r.readableWhileBusy = true ↔ r.number ≤ 4 := by
  cases r with
  | len | exclLo | exclHi | sfLen | dbgTlen =>
    simp only [Reg.readableWhileBusy, Reg.number, Bool.false_eq_true, false_iff]
    omega
  | _ => decide

/-- A register has one type: the zero of a refused read has the type of what the register holds (R68; log 8). -/
theorem Reg.zero_eq (s : State) (r : Reg) :
    r.zero = (match r.read s with | .num _ => .num (.rat 0) | _ => .word 0#32) := by
  cases r <;> rfl

theorem State.hostAccess_read_idle (idle : s.status.busy = false) (r : Reg) :
    s.hostAccess (.regRead r.number) = { s with answer := r.read s } := by
  simp [State.hostAccess, State.regRead, regAt_number, idle]

theorem State.hostAccess_read_low (s : State) {r : Reg} (hr : r.number ≤ 4) :
    s.hostAccess (.regRead r.number) = { s with answer := r.read s } := by
  simp [State.hostAccess, State.regRead, regAt_number, r.readableWhileBusy_iff.mpr hr]

theorem State.hostAccess_read_busy (busy : s.status.busy = true) {r : Reg} (hr : 4 < r.number) :
    s.hostAccess (.regRead r.number) = { s.refuse with answer := r.zero } := by
  have hread : r.readableWhileBusy = false := by
    rw [Bool.eq_false_iff, Ne, Reg.readableWhileBusy_iff]
    omega
  simp [State.hostAccess, State.regRead, regAt_number, busy, hread]

theorem State.hostAccess_read_none (s : State) {n : ℕ} (hn : regAt n = none) :
    s.hostAccess (.regRead n) = { s.refuse with answer := .word 0#32 } := by
  simp [State.hostAccess, State.regRead, hn]

theorem State.hostAccess_bufRead_idle (idle : s.status.busy = false) {b : BufId} {i : ℕ} {c : Cx NUM}
    (hc : (s.buf b)[i]? = some c) : s.hostAccess (.bufRead b.val i) = { s with answer := .elem c } := by
  have hread : s.mem.read b.val i = some c := (Memory.read_lt s.mem b i).trans hc
  simp [State.hostAccess, State.bufRead, idle, hread]

/-- A read of an element is refused when a command runs, or when there is no such element (R62). -/
theorem State.hostAccess_bufRead_refused {b i : ℕ} (h : s.status.busy = true ∨ s.mem.read b i = none) :
    s.hostAccess (.bufRead b i) = { s.refuse with answer := .elem ⟨.rat 0, .rat 0⟩ } := by
  simp only [State.hostAccess, State.bufRead]
  obtain busy | hnone := h
  · rw [busy]
  · rw [hnone]
    cases s.status.busy <;> rfl

theorem Memory.read_eq_none {b i : ℕ} (h : ∀ c : BufId, c.val = b → (s.buf c).length ≤ i) :
    s.mem.read b i = none := by
  unfold Memory.read
  split
  next hb => exact List.getElem?_eq_none (h ⟨b, hb⟩ rfl)
  next => rfl

/-- Settles O53: `Reg.read` at the number of each register. -/
theorem idleReads : Obligations.IdleReads := by
  intro s idle reads bool
  have value (r : Reg) : reads r.number (r.read s) := State.hostAccess_read_idle idle r
  refine ⟨fun n r hr => number_of_regAt hr ▸ value r, fun n hn => s.hostAccess_read_none hn,
    fun b i c hc => State.hostAccess_bufRead_idle idle hc,
    fun b i h => State.hostAccess_bufRead_refused (.inr (Memory.read_eq_none h)),
    ⟨value .id, value .cmd, value .status, s.status.word_getLsbD, value .errCode, value .errInfo⟩,
    ⟨value .argStart, value .argFactor, value .argFreq, value .argRate, value .argRepeat, value .argGuard⟩,
    ⟨value .resI0, value .resI1, value .resN0, value .resN1⟩,
    ⟨value .cfgSymbolRate, value .cfgDacRate, value .cfgAdcRate, value .cfgNumSymbols, value .cfgRollOff,
      value .cfgFrequencyShift, value .cfgNumPilots, value .cfgPilotFreq0, value .cfgPilotFreq1,
      value .cfgSequenceRoot, value .cfgSequenceLength, value .cfgSequenceRate, value .cfgClockShared,
      value .cfgLoShared, value .cfgProcessSubframes, value .cfgSubframeLength, value .cfgFirSize,
      value .cfgToneCutoff, value .cfgAbortClockThreshold, value .cfgNumExcl, value .cfgPhaseFilterSize,
      value .cfgBeatSampleCount, value .cfgDetectionSchema, value .cfgDebug⟩,
    ⟨value .snapSymbolRate, value .snapEquiRate, value .snapRollOff, value .snapFreqShift, value .snapSchema⟩,
    ⟨value .dbgFields, value .dbgSeqStart, value .dbgSeqEnd, value .dbgDataStart, value .dbgDataEnd,
      value .dbgFPilot0, value .dbgFPilot1, value .dbgFBeat, value .dbgDeltaF, value .dbgEquiRate⟩,
    value .sfCount, fun b => value (.len b), fun i hi => ⟨value (.exclLo ⟨i, hi⟩), value (.exclHi ⟨i, hi⟩)⟩,
    fun j hj => ⟨value (.sfLen ⟨j, hj⟩), value (.dbgTlen ⟨j, hj⟩)⟩⟩

/-- A register write is refused when a command runs, or when the number holds no register that can be written (R65). -/
theorem State.hostAccess_write_refused {n : ℕ}
    (h : s.status.busy = true ∨ ∀ r, regAt n = some r → r.access = .readOnly) (w : Word) (x : NUM) :
    s.hostAccess (.regWrite n w x) = s.refuse := by
  simp only [State.hostAccess, State.regWrite]
  split
  next => rfl
  next r hr =>
    refine if_pos ?_
    obtain busy | hro := h
    · rw [busy, Bool.true_or]
    · simp [hro r hr]

/-- The write half of MOV is a register write, refused like any other while a command runs (30_encoding.md R91). -/
theorem State.hostAccess_copy_eq (s : State) (n : ℕ) :
    s.hostAccess (.regCopy n) = s.hostAccess (.regWrite n s.answer.asWord s.answer.asNum) := rfl

/-- A write of an element is refused when a command runs, or when there is no such element of a buffer that the host
may write (R63). -/
theorem State.hostAccess_bufWrite_refused {b i : ℕ}
    (h : s.status.busy = true ∨ ¬ ∃ c : BufId, c.val = b ∧ b ≤ 6 ∧ i < (s.buf c).length) (v : Cx NUM) :
    s.hostAccess (.bufWrite b i v) = s.refuse := by
  simp only [State.hostAccess, State.bufWrite]
  split
  next => rfl
  next c hc =>
    have hcb : c.val = b := by
      unfold bufferNumber at hc
      split at hc <;> cases hc
      rfl
    refine if_pos ?_
    obtain busy | hnone := h
    · simp [busy]
    · have : ¬ (b ≤ 6 ∧ i < (s.buf c).length) := fun h => hnone ⟨c, hcb, h⟩
      simp only [BufId.hostWritable, hcb, Bool.or_eq_true, Bool.not_eq_true', decide_eq_false_iff_not,
        decide_eq_true_eq]
      omega

theorem State.hostAccess_bufWrite_idle (idle : s.status.busy = false) {c : BufId} (hc : c.val ≤ 6) {i : ℕ}
    (hi : i < (s.buf c).length) (v : Cx NUM) :
    s.hostAccess (.bufWrite c.val i v) = s.setBuf c ((s.buf c).set i v) := by
  simp [State.hostAccess, State.bufWrite, bufferNumber_val, idle, BufId.hostWritable, hc, hi]

/-- Settles O56: the permitted write replaces one element of one buffer, every other is refused. -/
theorem bufferWrite : Obligations.BufferWrite := by
  intro s b i v
  refine ⟨?_, fun h => State.hostAccess_bufWrite_refused h v⟩
  rintro idle ⟨c, rfl, hc, hi⟩
  rw [State.hostAccess_bufWrite_idle idle hc hi]
  exact ⟨fun c' j => s.setBuf_set_read c i v c' j hi, rfl⟩

/-- Settles O52: every access of a busy block is refused, but for the reads of 0x00 to 0x04. -/
theorem busyRefusesHost : Obligations.BusyRefusesHost := by
  intro s busy refused
  refine ⟨fun n hn => ?_, ⟨s.status.word, rfl, ?_, s.status.word_getLsbD⟩, fun n r hn hr => ?_,
    fun n hn => s.hostAccess_read_none hn, fun n w x => State.hostAccess_write_refused (.inl busy) w x,
    fun n => State.hostAccess_write_refused (.inl busy) _ _,
    fun b i => State.hostAccess_bufRead_refused (.inl busy),
    fun b i v => State.hostAccess_bufWrite_refused (.inl busy) v⟩
  · obtain ⟨r, -, rfl⟩ : ∃ r ∈ plainRegs, r.number = n := (plainRegs_numbers n).mpr (.inl hn)
    exact ⟨r, regAt_number r, s.hostAccess_read_low hn⟩
  · rw [Status.word_getLsbD]
    exact busy
  · obtain rfl := number_of_regAt hr
    rw [State.hostAccess_read_busy busy hn, Reg.zero_eq s]
    rfl

end Sys2Proof.Machine
end

section
/-! The host's writes of registers (20_memory.md R65, R68). A bank is told by the list of what its registers hold, in
the order of their numbers: a write then replaces one entry of the list. -/

namespace Sys2Proof.Machine

variable {s t : State}

/-- What the argument registers 0x10 to 0x15 hold (10_state.md R25). -/
def ArgBank.held (a : ArgBank) : List HostAnswer :=
  [.word a.start, .num a.factor, .num a.freq, .num a.rate, .word a.repeats, .num a.guard]

/-- What the configuration registers 0x40 to 0x57 hold (R27). -/
def CfgBank.held (c : CfgBank NUM) : List HostAnswer :=
  [.num c.symbolRate, .num c.dacRate, .num c.adcRate, .word c.numSymbols, .num c.rollOff, .num c.frequencyShift,
    .word c.numPilots, .num c.pilotFreq0, .num c.pilotFreq1, .word c.sequenceRoot, .word c.sequenceLength,
    .num c.sequenceRate, .word (boolWord c.clockShared), .word (boolWord c.loShared),
    .word (boolWord c.processSubframes), .word c.subframeLength, .word c.firSize, .num c.toneCutoff,
    .num c.abortClockThreshold, .word c.numExcl, .word c.phaseFilterSize, .word c.beatSampleCount,
    .word c.detectionSchema, .word (boolWord c.debug)]

/-- What a register that held `old` holds after a write with `w` and `x` on the two ports: the port of its type, and
bit 0 of it for a BOOL (10_state.md, register types; log 8). -/
def Reg.stored (r : Reg) (w : Word) (x : NUM) (old : HostAnswer) : HostAnswer :=
  match old with
  | .num _ => .num x
  | _ =>
    if r = .cfgClockShared ∨ r = .cfgLoShared ∨ r = .cfgProcessSubframes ∨ r = .cfgDebug then
      .word (boolWord (w.getLsbD 0))
    else .word w

/-- A register number of a bank. -/
def Reg.within (lo hi : ℕ) (r : Reg) : Prop := lo ≤ r.number ∧ r.number ≤ hi

/-- An argument register holds its entry of the argument bank, and no other register looks at the bank. -/
theorem Reg.read_withArg (s : State) (a : ArgBank) (r : Reg) :
    (r.within 0x10 0x15 ∧ s.arg.held[r.number - 0x10]? = some (r.read s)
      ∧ a.held[r.number - 0x10]? = some (r.read { s with arg := a }))
    ∨ (¬ r.within 0x10 0x15 ∧ r.read { s with arg := a } = r.read s) := by
  cases r with
  | argStart | argFactor | argFreq | argRate | argRepeat | argGuard => exact .inl ⟨⟨by decide, by decide⟩, rfl, rfl⟩
  | len | exclLo | exclHi | sfLen | dbgTlen => exact .inr ⟨fun h => by simp only [within, Reg.number] at h; omega, rfl⟩
  | _ => exact .inr ⟨by simp [within, Reg.number], rfl⟩

/-- A configuration register holds its entry of the configuration bank, and no other register looks at the bank. -/
theorem Reg.read_withCfg (s : State) (c : CfgBank NUM) (r : Reg) :
    (r.within 0x40 0x57 ∧ s.cfg.held[r.number - 0x40]? = some (r.read s)
      ∧ c.held[r.number - 0x40]? = some (r.read { s with cfg := c }))
    ∨ (¬ r.within 0x40 0x57 ∧ r.read { s with cfg := c } = r.read s) := by
  cases r with
  | cfgSymbolRate | cfgDacRate | cfgAdcRate | cfgNumSymbols | cfgRollOff | cfgFrequencyShift | cfgNumPilots
  | cfgPilotFreq0 | cfgPilotFreq1 | cfgSequenceRoot | cfgSequenceLength | cfgSequenceRate | cfgClockShared
  | cfgLoShared | cfgProcessSubframes | cfgSubframeLength | cfgFirSize | cfgToneCutoff | cfgAbortClockThreshold
  | cfgNumExcl | cfgPhaseFilterSize | cfgBeatSampleCount | cfgDetectionSchema | cfgDebug =>
    exact .inl ⟨⟨by decide, by decide⟩, rfl, rfl⟩
  | len | exclLo | exclHi | sfLen | dbgTlen => exact .inr ⟨fun h => by simp only [within, Reg.number] at h; omega, rfl⟩
  | _ => exact .inr ⟨by simp [within, Reg.number], rfl⟩

/-- A write of an argument register replaces its entry of the bank. -/
theorem Reg.write_arg {r : Reg} (hr : r.within 0x10 0x15) (s : State) (w : Word) (x : NUM) :
    ∃ a : ArgBank, r.write s w x = { s with arg := a }
      ∧ a.held = s.arg.held.set (r.number - 0x10) (r.stored w x (r.read s)) := by
  obtain ⟨lo, hi⟩ := hr
  cases r with
  | argStart | argFactor | argFreq | argRate | argRepeat | argGuard => exact ⟨_, rfl, rfl⟩
  | len | exclLo | exclHi | sfLen | dbgTlen => simp only [Reg.number] at lo hi; omega
  | _ => simp [Reg.number] at lo hi

/-- A write of a configuration register replaces its entry of the bank. -/
theorem Reg.write_cfg {r : Reg} (hr : r.within 0x40 0x57) (s : State) (w : Word) (x : NUM) :
    ∃ c : CfgBank NUM, r.write s w x = { s with cfg := c }
      ∧ c.held = s.cfg.held.set (r.number - 0x40) (r.stored w x (r.read s)) := by
  obtain ⟨lo, hi⟩ := hr
  cases r with
  | cfgSymbolRate | cfgDacRate | cfgAdcRate | cfgNumSymbols | cfgRollOff | cfgFrequencyShift | cfgNumPilots
  | cfgPilotFreq0 | cfgPilotFreq1 | cfgSequenceRoot | cfgSequenceLength | cfgSequenceRate | cfgClockShared
  | cfgLoShared | cfgProcessSubframes | cfgSubframeLength | cfgFirSize | cfgToneCutoff | cfgAbortClockThreshold
  | cfgNumExcl | cfgPhaseFilterSize | cfgBeatSampleCount | cfgDetectionSchema | cfgDebug => exact ⟨_, rfl, rfl⟩
  | len | exclLo | exclHi | sfLen | dbgTlen => simp only [Reg.number] at lo hi; omega
  | _ => simp [Reg.number] at lo hi

/-- Registers after one entry of a bank was replaced: `old` and `new` list what its registers hold in `s` and in `t`. -/
theorem Reg.read_of_set {lo hi : ℕ} {old new : List HostAnswer} {v : HostAnswer} {r : Reg} (hr : r.within lo hi)
    (holds : ∀ q : Reg,
      (q.within lo hi ∧ old[q.number - lo]? = some (q.read s) ∧ new[q.number - lo]? = some (q.read t))
      ∨ (¬ q.within lo hi ∧ q.read t = q.read s))
    (hset : new = old.set (r.number - lo) v) (q : Reg) : q.read t = if q = r then v else q.read s := by
  obtain ⟨hq, hold, hnew⟩ | ⟨hq, hsame⟩ := holds q
  · rw [hset, List.getElem?_set] at hnew
    by_cases e : q = r
    · subst e
      obtain ⟨hlen, -⟩ := List.getElem?_eq_some_iff.mp hold
      rw [if_pos rfl, if_pos hlen] at hnew
      rw [if_pos rfl]
      exact (Option.some.inj hnew).symm
    · have hne : r.number - lo ≠ q.number - lo := fun h => e (Reg.number_injective (by
        obtain ⟨hrlo, -⟩ := hr
        obtain ⟨hqlo, -⟩ := hq
        omega))
      rw [if_neg hne, hold] at hnew
      rw [if_neg e]
      exact (Option.some.inj hnew).symm
  · rw [if_neg (fun e : q = r => hq (e ▸ hr)), hsame]

/-- After a write of an argument register. -/
theorem Reg.read_write_arg {r : Reg} (hr : r.within 0x10 0x15) (s : State) (w : Word) (x : NUM) (q : Reg) :
    q.read (r.write s w x) = if q = r then r.stored w x (r.read s) else q.read s := by
  obtain ⟨a, hwrite, hheld⟩ := Reg.write_arg hr s w x
  rw [hwrite]
  exact Reg.read_of_set hr (Reg.read_withArg s a) hheld q

/-- After a write of a configuration register. -/
theorem Reg.read_write_cfg {r : Reg} (hr : r.within 0x40 0x57) (s : State) (w : Word) (x : NUM) (q : Reg) :
    q.read (r.write s w x) = if q = r then r.stored w x (r.read s) else q.read s := by
  obtain ⟨c, hwrite, hheld⟩ := Reg.write_cfg hr s w x
  rw [hwrite]
  exact Reg.read_of_set hr (Reg.read_withCfg s c) hheld q

/-- After a write of an exclusion-zone register (10_state.md R29). -/
theorem Reg.read_write_exclLo (i : Fin Config.maxExcl) (s : State) (w : Word) (x : NUM) (q : Reg) :
    q.read ((Reg.exclLo i).write s w x) = if q = .exclLo i then .num x else q.read s := by
  cases q with
  | exclLo j =>
    simp only [Reg.read, Reg.write, tableEntry_set, Reg.exclLo.injEq, Fin.ext_iff]
    split <;> rfl
  | _ => rfl

theorem Reg.read_write_exclHi (i : Fin Config.maxExcl) (s : State) (w : Word) (x : NUM) (q : Reg) :
    q.read ((Reg.exclHi i).write s w x) = if q = .exclHi i then .num x else q.read s := by
  cases q with
  | exclHi j =>
    simp only [Reg.read, Reg.write, tableEntry_set, Reg.exclHi.injEq, Fin.ext_iff]
    split <;> rfl
  | _ => rfl

/-- The registers of the exclusion-zone table are those at its numbers. -/
theorem Reg.zone_of_number {r : Reg} (lo : 0x100 ≤ r.number) (hi : r.number < 0x100 + 2 * Config.maxExcl) :
    (∃ i, r = .exclLo i) ∨ ∃ i, r = .exclHi i := by
  have := Config.maxExcl_le
  cases r with
  | exclLo i => exact .inl ⟨i, rfl⟩
  | exclHi i => exact .inr ⟨i, rfl⟩
  | len | sfLen | dbgTlen => simp only [Reg.number] at lo hi; omega
  | _ => simp [Reg.number] at lo

/-- The numbers of the arguments, the configuration and the exclusion zones. -/
def Reg.plainlyWritable (r : Reg) : Prop :=
  r.within 0x10 0x15 ∨ r.within 0x40 0x57 ∨ (0x100 ≤ r.number ∧ r.number < 0x100 + 2 * Config.maxExcl)

/-- A write of an argument, a configuration value or a zone is read back, and no other register reads otherwise. -/
theorem Reg.read_write {r : Reg} (hr : r.plainlyWritable) (s : State) (w : Word) (x : NUM) (q : Reg) :
    q.read (r.write s w x) = if q = r then r.stored w x (r.read s) else q.read s := by
  obtain harg | hcfg | ⟨lo, hi⟩ := hr
  · exact Reg.read_write_arg harg s w x q
  · exact Reg.read_write_cfg hcfg s w x q
  · obtain ⟨i, rfl⟩ | ⟨i, rfl⟩ := Reg.zone_of_number lo hi
    · exact Reg.read_write_exclLo i s w x q
    · exact Reg.read_write_exclHi i s w x q

/-- Such a write changes no buffer. -/
theorem Reg.write_mem {r : Reg} (hr : r.plainlyWritable) (s : State) (w : Word) (x : NUM) :
    (r.write s w x).mem = s.mem := by
  obtain harg | hcfg | ⟨lo, hi⟩ := hr
  · obtain ⟨a, hwrite, -⟩ := Reg.write_arg harg s w x
    rw [hwrite]
  · obtain ⟨c, hwrite, -⟩ := Reg.write_cfg hcfg s w x
    rw [hwrite]
  · obtain ⟨i, rfl⟩ | ⟨i, rfl⟩ := Reg.zone_of_number lo hi <;> rfl

/-- The read-only registers by their numbers (20_memory.md R71, 10_state.md R24 to R33). -/
theorem Reg.access_eq_readOnly_iff (r : Reg) : r.access = .readOnly ↔
    r.number = 0x00 ∨ (0x02 ≤ r.number ∧ r.number ≤ 0x04) ∨ (0x20 ≤ r.number ∧ r.number ≤ 0x23)
      ∨ (0x90 ≤ r.number ∧ r.number ≤ 0x99) ∨ r.number = 0xA0 ∨ (0xC7 ≤ r.number ∧ r.number ≤ 0xCB)
      ∨ 0x1000 ≤ r.number := by
  have := Config.maxExcl_le
  cases r with
  | len b =>
    have := b.isLt
    simp only [Reg.access, BufId.hostWritable, Reg.number]
    by_cases hb : b.val ≤ 6
    · simp [hb]
      omega
    · simp [hb]
      omega
  | exclLo i | exclHi i =>
    have := i.isLt
    simp only [Reg.access, Reg.number, reduceCtorEq, false_iff]
    omega
  | sfLen | dbgTlen =>
    simp only [Reg.access, Reg.number, true_iff]
    omega
  | _ => decide

theorem Reg.plainlyWritable.access_ne {r : Reg} (hr : r.plainlyWritable) : r.access ≠ .readOnly := by
  have := Config.maxExcl_le
  rw [Ne, Reg.access_eq_readOnly_iff]
  simp only [Reg.plainlyWritable, Reg.within] at hr
  omega

theorem boolWord_bit0 (w : Word) : boolWord (w.getLsbD 0) = w &&& 1#32 := by
  rw [BitVec.and_one_eq_setWidth_ofBool_getLsbD]
  cases w.getLsbD 0 <;> rfl

/-- Settles O54: `Reg.read_write` for the banks and the zones, the equations of `Reg.write` for the snapshot, and the
access column for what is refused. -/
theorem registerWrite : Obligations.RegisterWrite := by
  intro s w x idle
  have permitted (r : Reg) (hr : r.access ≠ .readOnly) := State.hostAccess_write idle hr w x
  refine ⟨fun r hr => ?_, permitted .snapSymbolRate (by decide),
    permitted .snapEquiRate (by decide), permitted .snapRollOff (by decide), permitted .snapFreqShift (by decide),
    permitted .snapSchema (by decide), fun n hn => ?_, fun r ha => ?_, fun r ha => ?_⟩
  · have hr : r.plainlyWritable := hr
    rw [State.hostAccess_write idle hr.access_ne]
    have own := Reg.read_write hr s w x r
    rw [if_pos rfl] at own
    refine ⟨fun q hq => by rw [Reg.read_write hr, if_neg hq], ?_, Reg.write_mem hr s w x⟩
    rw [own, ← boolWord_bit0]
    generalize r.read s = old
    cases old <;> rfl
  · refine State.hostAccess_write_refused (.inr fun r hr => ?_) w x
    obtain rfl := number_of_regAt hr
    rw [Reg.access_eq_readOnly_iff]
    simp only [hr, reduceCtorEq, or_false] at hn
    exact hn
  · rw [State.hostAccess_copy_eq, ha]
    rfl
  · rw [State.hostAccess_copy_eq, ha]
    rfl

end Sys2Proof.Machine
end

section
/-! Which words are commands (30_encoding.md R80 to R88): a word that decodes has zeros outside the fields of its row's
format, so it is the word that is put together from its own fields. -/

namespace Sys2Proof

/-- The word of a format from its opcode and its buffer fields: the fields that the format does not use hold 0
(R80, R81). -/
def Format.word (f : Format) (op bd bs bt : ℕ) : Word :=
  match f with
  | .z => commandWord op 0 0 0
  | .s => commandWord op 0 bs 0
  | .d => commandWord op bd 0 0
  | .ds => commandWord op bd bs 0
  | .dst => commandWord op bd bs bt

/-- Each row of the opcode map builds the command whose word has the row's code and format (R86). -/
theorem encode_build {r : OpcodeRow} (hr : r ∈ opcodeMap) (bd bs bt : BufId) :
    encode (r.build bd bs bt) = r.format.word r.code.toNat bd bs bt := by
  fin_cases hr <;> rfl

/-- Every code of the opcode map is one byte (R80). -/
theorem OpcodeRow.code_lt {r : OpcodeRow} (hr : r ∈ opcodeMap) : r.code.toNat < 2 ^ 8 := by
  have small : ∀ r ∈ opcodeMap, r.code.toNat < 2 ^ 8 := by decide
  exact small r hr

/-- A word that matches a code under a mask agrees with the code on every run of bits that the mask lets through. -/
theorem bits_eq_of_and_mask {w m c : Word} (h : w &&& m = c) (lo len : ℕ)
    (through : m.extractLsb' lo len = BitVec.allOnes len) :
    w.toNat / 2 ^ lo % 2 ^ len = c.toNat / 2 ^ lo % 2 ^ len := by
  have same : w.extractLsb' lo len = c.extractLsb' lo len := by
    rw [← h, BitVec.extractLsb'_and, through, BitVec.and_allOnes]
  simpa [Nat.shiftRight_eq_div_pow] using congrArg BitVec.toNat same

/-- The number of a word, from its opcode, its buffer fields and ZERO (R80). -/
theorem toNat_eq_fields (w : Word) :
    w.toNat = w.toNat % 2 ^ 8 + fieldBd w * 2 ^ 8 + fieldBs w * 2 ^ 12 + fieldBt w * 2 ^ 16
      + w.toNat / 2 ^ 20 * 2 ^ 20 := by
  simp only [fieldBd, fieldBs, fieldBt]
  omega

/-- A word that matches a one-byte opcode under the mask of a format is put together from the opcode and from its own
fields (R81). -/
theorem Format.word_fields (f : Format) {w op : Word} (hop : op.toNat < 2 ^ 8) (h : w &&& f.mask = op) :
    f.word op.toNat (fieldBd w) (fieldBs w) (fieldBt w) = w := by
  have parts := toNat_eq_fields w
  have opcode : w.toNat % 2 ^ 8 = op.toNat := by
    have := bits_eq_of_and_mask h 0 8 (by cases f <;> decide)
    omega
  have zero : w.toNat / 2 ^ 20 = 0 := by
    have := bits_eq_of_and_mask h 20 12 (by cases f <;> decide)
    have := w.isLt
    omega
  have unused (lo : ℕ) (hlo : 8 ≤ lo) (through : f.mask.extractLsb' lo 4 = BitVec.allOnes 4) :
      w.toNat / 2 ^ lo % 16 = 0 := by
    have clear : op.toNat / 2 ^ lo = 0 := Nat.div_eq_of_lt (hop.trans_le (Nat.pow_le_pow_right Nat.two_pos hlo))
    simpa [clear] using bits_eq_of_and_mask h lo 4 through
  have put (bd bs bt : ℕ) (hd : fieldBd w = bd) (hs : fieldBs w = bs) (ht : fieldBt w = bt) :
      commandWord op.toNat bd bs bt = w := by
    rw [commandWord, ← opcode, ← hd, ← hs, ← ht]
    exact BitVec.eq_of_toNat_eq (by rw [BitVec.toNat_ofNat]; omega)
  cases f with
  | z =>
    exact put 0 0 0 (unused 8 (by decide) (by decide)) (unused 12 (by decide) (by decide))
      (unused 16 (by decide) (by decide))
  | s => exact put 0 _ 0 (unused 8 (by decide) (by decide)) rfl (unused 16 (by decide) (by decide))
  | d => exact put _ 0 0 rfl (unused 12 (by decide) (by decide)) (unused 16 (by decide) (by decide))
  | ds => exact put _ _ 0 rfl rfl (unused 16 (by decide) (by decide))
  | dst => exact put _ _ _ rfl rfl rfl

theorem val_of_bufferNumber {n : ℕ} {b : BufId} (h : bufferNumber n = some b) : b.val = n := by
  unfold bufferNumber at h
  split at h
  · cases h
    rfl
  · cases h

/-- A word that decodes is selected by a row of the opcode map, its fields name buffers, and the row builds the command
from these (R84 items 1 and 2). -/
theorem decode_ok {w : Word} {i : Instr} (h : decode w = .ok i) :
    ∃ r ∈ opcodeMap, r.selects w = true ∧ ∃ bd bs bt : BufId,
      bd.val = fieldBd w ∧ bs.val = fieldBs w ∧ bt.val = fieldBt w ∧ i = r.build bd bs bt := by
  unfold decode at h
  split at h
  next => cases h
  next r hfind =>
    split at h
    next bd bs bt hd hs ht =>
      cases h
      exact ⟨r, List.mem_of_find?_eq_some hfind, by simpa using List.find?_some hfind, bd, bs, bt,
        val_of_bufferNumber hd, val_of_bufferNumber hs, val_of_bufferNumber ht, rfl⟩
    next => cases h

/-- Encoding gives back the word that was decoded: no bit is ignored (R87). -/
theorem encode_of_decode {w : Word} {i : Instr} (h : decode w = .ok i) : encode i = w := by
  obtain ⟨r, hr, hsel, bd, bs, bt, hd, hs, ht, rfl⟩ := decode_ok h
  rw [encode_build hr, hd, hs, ht]
  exact r.format.word_fields (OpcodeRow.code_lt hr) (by simpa [OpcodeRow.selects] using hsel)

/-- The number of a word that is put together from a one-byte opcode and three buffers (R80). -/
theorem commandWord_toNat {op : ℕ} (hop : op < 2 ^ 8) (bd bs bt : BufId) :
    (commandWord op bd bs bt).toNat = op + bd * 2 ^ 8 + bs * 2 ^ 12 + bt * 2 ^ 16 := by
  rw [commandWord, BitVec.toNat_ofNat, Nat.mod_eq_of_lt (by omega)]

/-- Settles O1: each command is built by its own row. -/
theorem decodeEncode : Obligations.DecodeEncode := decode_encode

/-- Settles O2: the word is put together from its own fields, as the encoder does. -/
theorem encodeDecode : Obligations.EncodeDecode := fun _ _ => encode_of_decode

/-- Settles O3: the legal words are the encoder's; the illegal ones are decoded by computation. -/
theorem wordsOfTheTable : Obligations.WordsOfTheTable :=
  ⟨decode_encode (.downsample 4 3), decode_encode (.bestpoint 3), decode_encode (.sync 0), decode_encode (.zcgen 5),
    decode_encode (.phcorr 6 4 5), decode_encode .run, by decide, by decide, by decide, by decide⟩

end Sys2Proof
end

section
/-! The two static failures of R84: a word that is no command (R88), and a destination that breaks R85. -/

namespace Sys2Proof.Machine

variable {s : State}

/-- The words of the commands with one source are words of R88. -/
theorem legalWord_source {op : ℕ} (hop : op ∈ [0x11, 0x21, 0x30, 0x31, 0x33]) (bs : BufId) :
    legalWord (commandWord op 0 bs 0) := by
  have small : ∀ op ∈ [0x11, 0x21, 0x30, 0x31, 0x33], op < 2 ^ 8 := by decide
  exact .inr (.inl ⟨op, hop, bs, bs.isLt, by simpa using commandWord_toNat (small op hop) 0 bs 0⟩)

/-- So are those with a destination and one source. -/
theorem legalWord_destination_source {op : ℕ} (hop : op ∈ [0x10, 0x32, 0x34, 0x40, 0x41]) (bd bs : BufId) :
    legalWord (commandWord op bd bs 0) := by
  have small : ∀ op ∈ [0x10, 0x32, 0x34, 0x40, 0x41], op < 2 ^ 8 := by decide
  exact .inr (.inr (.inr (.inl
    ⟨op, hop, bd, bd.isLt, bs, bs.isLt, by simpa using commandWord_toNat (small op hop) bd bs 0⟩)))

/-- The word of every command is one of the words of R88, format by format. -/
theorem legalWord_encode (i : Instr) : legalWord (encode i) := by
  cases i with
  | nop | clrerr | sreset | run | special => exact .inl ⟨_, by decide, rfl⟩
  | bestpoint bs | sync bs | find1 bs | find2 bs | eqrate bs => exact legalWord_source (by decide) bs
  | zcgen bd =>
    have number : (encode (.zcgen bd)).toNat = _ := commandWord_toNat (by decide) bd 0 0
    exact .inr (.inr (.inl ⟨bd, bd.isLt, by simpa using number⟩))
  | downsample bd bs | tone bd bs | phnoise bd bs | fshift bd bs | mfilt bd bs =>
    exact legalWord_destination_source (by decide) bd bs
  | phcorr bd bs bt =>
    exact .inr (.inr (.inr (.inr ⟨bd, bd.isLt, bs, bs.isLt, bt, bt.isLt, commandWord_toNat (by decide) bd bs bt⟩)))

/-- A word that is none of the words of R88 decodes to an error. -/
theorem decode_error_of_not_legal {w : Word} (h : ¬ legalWord w) : ∃ e, decode w = .error e := by
  cases hd : decode w with
  | error e => exact ⟨e, rfl⟩
  | ok i => exact absurd (encode_of_decode hd ▸ legalWord_encode i) h

theorem State.fail_eq_failedWith (s : State) (e : ErrCode) : s.fail e = s.failedWith e := rfl

/-- The block's turn on a latched word that does not decode (30_encoding.md R88). -/
theorem blockStep_illegal {e : DecodeError} (busy : s.status.busy = true) (hd : decode s.latch = .error e) :
    blockStep s = .next (s.failedWith .errIllegal) := by
  simp [blockStep, busy, hd, State.fail_eq_failedWith]

/-- Settles O6: what is no legal word does not decode, and the block's turn fails. -/
theorem illegalWordFails : Obligations.IllegalWordFails := by
  intro s busy illegal
  obtain ⟨e, hd⟩ := decode_error_of_not_legal illegal
  refine ⟨fun ha => ?_, fun rest ha => ?_⟩
  · rw [step_of_nil ha, blockStep_illegal busy hd]
  · rw [step_of_blockTurn ha]
    exact blockStep_illegal busy hd

/-- The destination check comes first in the rule of every command with a destination (R84 item 3,
60_exceptions.md R283). -/
theorem ruleOf_of_not_wellFormed {i : Instr} (h : i.wellFormed = false) (s : State) :
    ruleOf i s = .error .errAlias := by
  have checked {bd : BufId} {sources : List BufId} (hd : destinationOk bd sources = false)
      (r : Except ErrCode State) : (if !destinationOk bd sources then .error .errAlias else r) = .error .errAlias := by
    rw [hd]
    rfl
  cases i with
  | downsample | zcgen | tone | phnoise | phcorr | fshift | mfilt => exact checked h _
  | _ => cases h

/-- Settles O17: the command completes with what its rule answers. -/
theorem aliasFails : Obligations.AliasFails := by
  intro i s h
  have hi : i ≠ .sreset := by
    rintro rfl
    cases h
  rw [exec_eq_complete i s hi, ruleOf_of_not_wellFormed h]
  rfl

end Sys2Proof.Machine
end

section
/-! The numeric primitives of the sequence correlator over the exact reals: the elements of a sequence as complex
numbers (00_scope.md R10), repeating in place (R16) and the first maximum (R6). -/

namespace Sys2Proof.Machine

/-! Elements as complex numbers. -/

/-- At an index from 0 on, the element of a sequence of reals is the one that the rules read. -/
theorem realSampleAt_natCast (x : List (Cx ℝ)) (n : ℕ) : realSampleAt x n = (Arith.real.elem x n).toComplex := by
  have inside : (0 : ℤ) ≤ n := Int.natCast_nonneg n
  rw [realSampleAt, if_pos inside, Int.toNat_natCast, Arith.elem, List.getD_eq_getElem?_getD]
  cases x[n]? <;> simp

/-- A sequence of terms, read as real numbers, has the same elements. -/
theorem realSampleAt_valuesOf (x : List (Cx NUM)) : realSampleAt (valuesOf x) = sampleAt x := by
  funext n
  simp only [realSampleAt, sampleAt, valuesOf, List.getElem?_map, Option.map_map]
  rfl

/-- Within a part `x[lo:hi)`, the elements are those of `x` from `lo` on. -/
theorem Arith.elem_slice {R : Type} (A : Arith R) (x : List (Cx R)) {lo hi n : ℕ} (h : n < hi - lo) :
    A.elem (slice x lo hi) n = A.elem x (lo + n) := by
  rw [Arith.elem, Arith.elem, slice, List.getD_eq_getElem?_getD, List.getD_eq_getElem?_getD,
    List.getElem?_take_of_lt h, List.getElem?_drop]

/-- Element `j` of a sequence with every element repeated `q` times in place is element `floor(j/q)` (R16). -/
theorem getElem?_repeatEach {α : Type} (a : List α) {q : ℕ} (hq : 0 < q) (j : ℕ) :
    (repeatEach a q)[j]? = a[j / q]? := by
  induction a generalizing j with
  | nil => rfl
  | cons x a ih =>
    have split : repeatEach (x :: a) q = List.replicate q x ++ repeatEach a q := rfl
    rw [split]
    rcases lt_or_ge j q with first | later
    · rw [List.getElem?_append_left (by simpa using first), List.getElem?_replicate, if_pos first,
        Nat.div_eq_of_lt first]
      rfl
    · obtain ⟨i, rfl⟩ := Nat.exists_eq_add_of_le later
      rw [List.getElem?_append_right (by simp), List.length_replicate, Nat.add_sub_cancel_left, ih,
        Nat.add_div_left i hq, List.getElem?_cons_succ]

/-! The first maximum (R6). -/

/-- `k` is the least index of greatest value in a list of (index, value) pairs (R6). -/
def IsFirstMax (l : List (ℕ × ℝ)) (k : ℕ) : Prop := ∃ v, (k, v) ∈ l ∧ ∀ c ∈ l, c.2 ≤ v ∧ (c.1 < k → c.2 < v)

/-- The scan ends at the first maximum of the pairs it has seen, when their indices rise. -/
theorem Arith.real_bestFrom_isFirstMax (j : ℕ) (v : ℝ) (l : List (ℕ × ℝ))
    (rising : ((j, v) :: l).Pairwise fun c d => c.1 < d.1) :
    IsFirstMax ((j, v) :: l) (Arith.real.bestFrom j v l) := by
  induction l generalizing j v with
  | nil => exact ⟨v, by simp [Arith.bestFrom], by simp [Arith.bestFrom]⟩
  | cons c l ih =>
    obtain ⟨k, u⟩ := c
    obtain ⟨above, rest⟩ := List.pairwise_cons.mp rising
    have hjk : j < k := above (k, u) List.mem_cons_self
    rw [Arith.bestFrom]
    split
    next greater =>
      have hvu : v < u := (Arith.real_lt v u).mp greater
      obtain ⟨w, hmem, hmax⟩ := ih k u rest
      have huw : u ≤ w := (hmax (k, u) List.mem_cons_self).1
      refine ⟨w, List.mem_cons_of_mem _ hmem, fun c hc => ?_⟩
      obtain rfl | hc := List.mem_cons.mp hc
      · exact ⟨(hvu.trans_le huw).le, fun _ => hvu.trans_le huw⟩
      · exact hmax c hc
    next notGreater =>
      have huv : u ≤ v := not_lt.mp fun h => notGreater ((Arith.real_lt v u).mpr h)
      have kept : ((j, v) :: l).Pairwise fun c d => c.1 < d.1 :=
        List.pairwise_cons.mpr ⟨fun c hc => above c (List.mem_cons_of_mem _ hc), (List.pairwise_cons.mp rest).2⟩
      obtain ⟨w, hmem, hmax⟩ := ih j v kept
      obtain ⟨hvw, hjw⟩ := hmax (j, v) List.mem_cons_self
      refine ⟨w, ?_, fun c hc => ?_⟩
      · exact (List.mem_cons.mp hmem).elim (fun h => h ▸ List.mem_cons_self)
          fun h => List.mem_cons_of_mem _ (List.mem_cons_of_mem _ h)
      · rw [List.mem_cons, List.mem_cons] at hc
        obtain rfl | rfl | hc := hc
        · exact ⟨hvw, hjw⟩
        · exact ⟨huv.trans hvw, fun hk => huv.trans_lt (hjw (hjk.trans hk))⟩
        · exact hmax c (List.mem_cons_of_mem _ hc)

/-- In a list that is not empty and whose indices rise, `argmaxFirst` finds the first maximum (R6). -/
theorem Arith.real_argmaxFirst_isFirstMax {l : List (ℕ × ℝ)} (hne : l ≠ [])
    (rising : l.Pairwise fun c d => c.1 < d.1) :
    ∃ k, Arith.real.argmaxFirst l = some k ∧ IsFirstMax l k := by
  cases l with
  | nil => exact absurd rfl hne
  | cons c l => exact ⟨_, rfl, Arith.real_bestFrom_isFirstMax c.1 c.2 l rising⟩

/-- The first maximum of a function over rising indices. -/
theorem Arith.real_argmaxFirst_map (f : ℕ → ℝ) {ks : List ℕ} (hne : ks ≠ []) (rising : ks.Pairwise (· < ·)) :
    ∃ k ∈ ks, Arith.real.argmaxFirst (ks.map fun k => (k, f k)) = some k
      ∧ ∀ k' ∈ ks, f k' ≤ f k ∧ (k' < k → f k' < f k) := by
  obtain ⟨k, found, v, hmem, hmax⟩ := Arith.real_argmaxFirst_isFirstMax (l := ks.map fun k => (k, f k))
    (by simpa using hne) (List.pairwise_map.mpr rising)
  obtain ⟨k, hk, ⟨⟩⟩ := List.mem_map.mp hmem
  exact ⟨k, hk, found, fun k' hk' => hmax (k', f k') (List.mem_map_of_mem hk')⟩

end Sys2Proof.Machine
end

section
/-! The sequence correlator over the exact reals (41_sequence_sync.md R122 to R127), and the commands ZCGEN and
SYNC. -/

namespace Sys2Proof.Machine

/-! The reference sequence (R122, R125). -/

theorem Arith.real_zc_getElem? (u : ℕ) {L n : ℕ} (h : n < L) :
    ((Arith.real.zc u L)[n]?).map Cx.toComplex = some (zcOf u L n) := by
  rw [Arith.zc, List.getElem?_map, List.getElem?_range h]
  simp only [Option.map_some, Arith.real_cis, Arith.real_mul, Arith.real_pi, Arith.real_rat, zcOf, cisOf]
  congr 4
  push_cast
  ring

/-- Element `j` of the repeated reference is element `floor(j/q)` of the sequence (R125, R16). -/
theorem realSampleAt_reference (u : ℕ) {L q j : ℕ} (hq : 0 < q) (h : j < L * q) :
    realSampleAt (Arith.real.reference u L q) j = zcOf u L (j / q) := by
  rw [realSampleAt, if_pos (Int.natCast_nonneg j), Int.toNat_natCast, Arith.reference, getElem?_repeatEach _ hq,
    Arith.real_zc_getElem? u ((Nat.div_lt_iff_lt_mul hq).mpr h), Option.getD_some]

/-! The two stages of the synchroniser. -/

/-- The mean magnitude of the `W` elements that end at `j` (R124). -/
noncomputable def trailingMean (x : ℤ → ℂ) (W j : ℕ) : ℝ :=
  1 / (W : ℝ) * ∑ i ∈ Finset.range W, ‖x ((j : ℤ) - i)‖

/-- The modulus of the correlation with the repeated reference, at lag `l` from `lo` on (R126). -/
noncomputable def correlationModulus (x : ℤ → ℂ) (u L q lo l : ℕ) : ℝ :=
  ‖∑ n ∈ Finset.range (L * q), x (lo + l + n) * (starRingEnd ℂ) (zcOf u L (n / q))‖

/-- The rolling average reads no element before the sequence (R124). -/
theorem Arith.real_rolling (x : List (Cx ℝ)) {W j : ℕ} (h : W ≤ j + 1) :
    Arith.real.rolling x W j = trailingMean (realSampleAt x) W j := by
  rw [Arith.rolling, Arith.real_sumTo, Arith.real_mul, Arith.real_div, Arith.real_one, Arith.real_nat]
  refine congrArg _ (Finset.sum_congr rfl fun i hi => ?_)
  have inside : i ≤ j := Nat.le_of_lt_succ ((Finset.mem_range.mp hi).trans_le h)
  rw [← Nat.cast_sub inside, realSampleAt_natCast, Arith.real_cabs]

/-- The coarse localisation: half a window before the first maximum of the trailing mean magnitude (R124). -/
theorem Arith.real_coarse {x : List (Cx ℝ)} (h : 50 ≤ x.length) :
    let W := x.length / 50
    ∃ js : ℕ, Arith.real.coarse x = js - W / 2 ∧ W - 1 ≤ js ∧ js < x.length
      ∧ ∀ j : ℕ, W - 1 ≤ j → j < x.length →
        trailingMean (realSampleAt x) W j ≤ trailingMean (realSampleAt x) W js
        ∧ (j < js → trailingMean (realSampleAt x) W j < trailingMean (realSampleAt x) W js) := by
  intro W
  have window : 1 ≤ W ∧ W ≤ x.length := by omega
  have mem (j : ℕ) : j ∈ List.range' (W - 1) (x.length + 1 - W) ↔ W - 1 ≤ j ∧ j < x.length := by
    rw [List.mem_range'_1]
    omega
  obtain ⟨js, hjs, found, greatest⟩ := Arith.real_argmaxFirst_map (Arith.real.rolling x W)
    (List.ne_nil_of_mem ((mem (W - 1)).mpr (by omega))) List.pairwise_lt_range'
  obtain ⟨low, high⟩ := (mem js).mp hjs
  refine ⟨js, ?_, low, high, fun j hj hj' => ?_⟩
  · have average : coarseWindow x.length = W := rfl
    rw [Arith.coarse, average, found, Option.getD_some]
  · rw [← Arith.real_rolling x (by omega : W ≤ j + 1), ← Arith.real_rolling x (by omega : W ≤ js + 1)]
    exact greatest j ((mem j).mpr ⟨hj, hj'⟩)

/-- The correlation within a part of the sequence, at a lag at which the reference lies within that part (R126). -/
theorem Arith.real_correlation_slice (x : List (Cx ℝ)) (u : ℕ) {L q lo hi l : ℕ} (hq : 0 < q)
    (h : l + L * q ≤ hi - lo) :
    Arith.real.correlation (slice x lo hi) (Arith.real.reference u L q) l
      = correlationModulus (realSampleAt x) u L q lo l := by
  rw [Arith.correlation, Arith.real_cabs, Arith.real_csumTo, Arith.reference_length, correlationModulus]
  refine congrArg _ (Finset.sum_congr rfl fun n hn => ?_)
  have inside : n < L * q := Finset.mem_range.mp hn
  have index : (lo + l + n : ℤ) = ((lo + (l + n) : ℕ) : ℤ) := by push_cast; ring
  rw [Arith.real_cmul, Arith.real_conj, Arith.elem_slice _ _ (by omega), ← realSampleAt_natCast,
    ← realSampleAt_natCast, realSampleAt_reference u hq inside, index]

/-- The first maximum of the correlation over the lags at which the reference lies within the part `x[lo:hi)`
(R126). -/
theorem Arith.real_firstLag (x : List (Cx ℝ)) (u : ℕ) {L q lo hi : ℕ} (hq : 0 < q) (room : L * q ≤ hi - lo) :
    ∃ ls : ℕ,
      Arith.real.argmaxFirst ((List.range (hi - lo + 1 - L * q)).map fun l =>
        (l, Arith.real.correlation (slice x lo hi) (Arith.real.reference u L q) l)) = some ls
      ∧ ls + L * q ≤ hi - lo ∧ ∀ l : ℕ, l + L * q ≤ hi - lo →
        correlationModulus (realSampleAt x) u L q lo l ≤ correlationModulus (realSampleAt x) u L q lo ls
        ∧ (l < ls →
          correlationModulus (realSampleAt x) u L q lo l < correlationModulus (realSampleAt x) u L q lo ls) := by
  have mem (l : ℕ) : l ∈ List.range (hi - lo + 1 - L * q) ↔ l + L * q ≤ hi - lo := by
    rw [List.mem_range]
    omega
  obtain ⟨ls, hls, found, greatest⟩ := Arith.real_argmaxFirst_map
    (Arith.real.correlation (slice x lo hi) (Arith.real.reference u L q))
    (List.ne_nil_of_mem ((mem 0).mpr (by omega))) List.pairwise_lt_range
  have within := (mem ls).mp hls
  refine ⟨ls, found, within, fun l hl => ?_⟩
  rw [← Arith.real_correlation_slice x u hq hl, ← Arith.real_correlation_slice x u hq within]
  exact greatest l ((mem l).mpr hl)

/-- The window around a coarse position within the sequence has room for the reference (R126). -/
theorem reference_fits_window {N m c : ℕ} (positive : 0 < m) (fits : m ≤ N) (hc : c < N) :
    m ≤ min N (c + 2 * m) - (c - 2 * m) := by
  omega

/-- The synchroniser over the exact reals finds the start of R124 to R127. -/
theorem Arith.real_sync_isSync {x : List (Cx ℝ)} (u : ℕ) {L q : ℕ} (hN : 50 ≤ x.length) (hL : 1 ≤ L) (hq : 1 ≤ q)
    (fits : L * q ≤ x.length) :
    ∃ st : ℕ, Arith.real.sync x u L q = (st, st + L * q) ∧ IsSync x.length (realSampleAt x) u L q st := by
  obtain ⟨js, hc, low, high, greatest⟩ := Arith.real_coarse hN
  have room := reference_fits_window (Nat.mul_pos hL hq) fits (show Arith.real.coarse x < x.length by omega)
  obtain ⟨ls, found, within, best⟩ := Arith.real_firstLag x u hq room
  refine ⟨Arith.real.coarse x - 2 * (L * q) + ls, ?_, js, Arith.real.coarse x, _, _, ls, ⟨low, high, greatest⟩,
    by omega, ?_, rfl, ⟨within, best⟩, rfl, ?_⟩
  · rw [Arith.sync, found, Option.getD_some]
  · omega
  · omega

/-! The commands. -/

/-- A command whose rule succeeds leaves the state that the rule wrote, completed (20_memory.md R67). -/
theorem exec_of_ruleOf_ok {i : Instr} {s t : State} (hi : i ≠ .sreset) (h : ruleOf i s = .ok t) :
    exec i s = .next t.finished := by
  rw [exec_eq_complete i s hi, h]
  rfl

/-- ZCGEN within its checks (R121). -/
theorem zcgenRule_of_checks {s : State} {bd : BufId} (ok : destinationOk bd [] = true)
    (hL : s.cfg.sequenceLength.toNat ≠ 0) (hq : s.arg.repeats.toNat ≠ 0)
    (fits : s.cfg.sequenceLength.toNat * s.arg.repeats.toNat ≤ Config.bufMax) :
    zcgenRule s bd = .ok (s.setBuf bd
      (numArith.reference s.cfg.sequenceRoot.toNat s.cfg.sequenceLength.toNat s.arg.repeats.toNat)) := by
  simp [zcgenRule, ok, hL, hq, fits]

/-- SYNC within its checks (R123). -/
theorem syncRule_of_checks {s : State} {bs : BufId} (hL : s.cfg.sequenceLength.toNat ≠ 0)
    (hq : s.arg.repeats.toNat ≠ 0) (hN : 50 ≤ (s.buf bs).length)
    (fits : s.cfg.sequenceLength.toNat * s.arg.repeats.toNat ≤ (s.buf bs).length) {st : ℕ × ℕ}
    (found : numArith.sync (s.buf bs) s.cfg.sequenceRoot.toNat s.cfg.sequenceLength.toNat s.arg.repeats.toNat = st) :
    syncRule s bs = .ok ((s.setI0 (wordOf st.1)).setI1 (wordOf st.2)) := by
  subst found
  simp [syncRule, hL, hq, hN, fits]

/-- Settles O28: the repeated reference on the machine's terms, read as real numbers. -/
theorem zcgenResult : Obligations.ZcgenResult := by
  intro bd s ok hL hq fits
  have hq' : s.arg.repeats.toNat ≠ 0 := BitVec.toNat_ne.mp hq
  refine ⟨_, exec_of_ruleOf_ok (by simp) (zcgenRule_of_checks ok (BitVec.toNat_ne.mp hL) hq' fits),
    Arith.reference_length _ _ _ _, fun j hj => ?_⟩
  rw [Arith.reference_length] at hj
  rw [← realSampleAt_valuesOf, numArith_reference_values, realSampleAt_reference _ (Nat.pos_of_ne_zero hq') hj]

/-- Settles O29: the synchroniser over the exact reals, and SYNC as the same function on the machine's terms. -/
theorem syncResult : Obligations.SyncResult := by
  refine ⟨fun x u L q hN hL hq fits => Arith.real_sync_isSync u hN hL hq fits, fun bs s => ?_⟩
  intro L q hL hq hN fits
  have hL' : L ≠ 0 := BitVec.toNat_ne.mp hL
  have hq' : q ≠ 0 := BitVec.toNat_ne.mp hq
  obtain ⟨st, found, isSync⟩ := Arith.real_sync_isSync (x := valuesOf (s.buf bs)) s.cfg.sequenceRoot.toNat
    (by rwa [valuesOf_length]) (Nat.pos_of_ne_zero hL') (Nat.pos_of_ne_zero hq') (by rwa [valuesOf_length])
  rw [← numArith_sync] at found
  rw [realSampleAt_valuesOf, valuesOf_length] at isSync
  exact ⟨st, exec_of_ruleOf_ok (by simp) (syncRule_of_checks hL' hq' hN fits found), isSync⟩

end Sys2Proof.Machine
end

section
/-! Elements over the exact reals at any integer index (00_scope.md R10), and results that are read as real
numbers. -/

namespace Sys2Proof.Machine

/-! Elements, convolution and bins. -/

/-- Before, within and after a sequence of reals, the element that the rules read is the one of the formulas. -/
theorem Arith.real_elemAt (x : List (Cx ℝ)) (n : ℤ) :
    (Arith.real.elemAt x n).toComplex = realSampleAt x n := by
  rw [Arith.elemAt]
  split
  · next inside =>
    lift n to ℕ using inside
    rw [Int.toNat_natCast, realSampleAt_natCast]
  · next before => rw [realSampleAt, if_neg before, Arith.real_czero]

/-- Element `n` of a sequence that is given by its elements. -/
theorem realSampleAt_map_range (f : ℕ → Cx ℝ) {N n : ℕ} (h : n < N) :
    realSampleAt ((List.range N).map f) n = (f n).toComplex := by
  rw [realSampleAt_natCast, Arith.elem, List.getD_eq_getElem _ _ (by simpa using h)]
  simp

/-- The elements of the centred convolution, over the natural indices of its source (R10). -/
theorem Arith.convSame_eq_map {R : Type} (A : Arith R) (x h : List (Cx R)) :
    A.convSame x h = (List.range x.length).map fun n : ℕ =>
      A.csumTo (fun k => A.cmul (A.elem h k) (A.elemAt x (n + centre h.length - k))) h.length := by
  rw [Arith.convSame, List.bind_eq_flatMap, List.map_flatMap, List.map_eq_flatMap]
  rfl

/-- The centred convolution as a sum of products (R10). -/
theorem Arith.real_convSame (x h : List (Cx ℝ)) {n : ℕ} (hn : n < x.length) :
    realSampleAt (Arith.real.convSame x h) n
      = ∑ k ∈ Finset.range h.length, realSampleAt h k * realSampleAt x (n + centre h.length - k) := by
  rw [Arith.convSame_eq_map, realSampleAt_map_range _ hn, Arith.real_csumTo]
  refine Finset.sum_congr rfl fun k _ => ?_
  rw [Arith.real_cmul, Arith.real_elemAt, ← realSampleAt_natCast]

/-- The modulus of a bin of the discrete Fourier transform (R11). -/
theorem Arith.real_cabs_dftBin (x : List (Cx ℝ)) (k : ℕ) :
    Arith.real.cabs (Arith.real.dftBin x k) = binMagnitude x.length (realSampleAt x) k := by
  rw [Arith.real_cabs, Arith.dftBin, Arith.real_csumTo, binMagnitude]
  refine congrArg _ (Finset.sum_congr rfl fun n _ => ?_)
  rw [Arith.real_cmul, ← realSampleAt_natCast, Arith.real_cis, cisOf, Arith.real_mul, Arith.real_pi, Arith.real_rat]
  congr 4
  push_cast
  ring

/-- The frequency of a bin (R11). -/
@[simp] theorem Arith.real_binFreq (rate : ℝ) (N k : ℕ) : Arith.real.binFreq rate N k = k * rate / N := by
  simp [Arith.binFreq]

@[simp] theorem Arith.real_eq_false (a b : ℝ) : Arith.real.eq a b = false ↔ a ≠ b := by
  rw [Bool.eq_false_iff, Ne, Arith.real_eq]

/-! Results with errors. -/

/-- A result that reads as a value is a value. -/
theorem Except.exists_ok_of_map {ε α β : Type} {f : α → β} {x : Except ε α} {b : β} (h : x.map f = .ok b) :
    ∃ a, x = .ok a ∧ f a = b := by
  cases x with
  | error e => cases h
  | ok a => exact ⟨a, rfl, Except.ok.inj h⟩

/-- A result that reads as an error is that error. -/
theorem Except.error_of_map {ε α β : Type} {f : α → β} {x : Except ε α} {e : ε} (h : x.map f = .error e) :
    x = .error e := by
  cases x with
  | error e' => rw [Except.error.inj h]
  | ok a => cases h

/-- A command whose rule raises an error ends in the failure update (60_exceptions.md R284). -/
theorem exec_of_ruleOf_error {i : Instr} {s : State} {e : ErrCode} (hi : i ≠ .sreset) (h : ruleOf i s = .error e) :
    exec i s = .next (s.failedWith e) := by
  rw [exec_eq_complete i s hi, h]
  rfl

end Sys2Proof.Machine
end

section
/-! The pilot detector (42_pilot_tone.md R141 to R145): `find1` and `find2` over the exact reals, and the commands
FIND1 and FIND2. -/

namespace Sys2Proof.Machine

/-! One pilot. -/

/-- Both ends of a zone are excluded (R141). -/
theorem Arith.real_excluded (zones : List (ℝ × ℝ)) (f : ℝ) :
    Arith.real.excluded zones f = true ↔ ∃ z ∈ zones, z.1 ≤ f ∧ f ≤ z.2 := by
  simp [Arith.excluded]

/-- The candidates of the pilot detector: the positive bins that are not excluded (R143). -/
noncomputable def admittedBins (N : ℕ) (rate : ℝ) (zones : List (ℝ × ℝ)) : List ℕ :=
  (List.range' 1 ((N + 1) / 2 - 1)).filter fun k => !Arith.real.excluded zones (Arith.real.binFreq rate N k)

theorem mem_admittedBins {N : ℕ} {rate : ℝ} {zones : List (ℝ × ℝ)} {k : ℕ} :
    k ∈ admittedBins N rate zones ↔ AdmittedBin N rate zones k := by
  have positive : 1 ≤ k ∧ k < 1 + ((N + 1) / 2 - 1) ↔ 1 ≤ k ∧ k < (N + 1) / 2 := by omega
  have outside : (!Arith.real.excluded zones (k * rate / N)) = true
      ↔ ∀ z ∈ zones, ¬ (z.1 ≤ k * rate / N ∧ k * rate / N ≤ z.2) := by
    rw [Bool.not_eq_true', ← Bool.not_eq_true, Arith.real_excluded]
    push Not
    rfl
  rw [admittedBins, List.mem_filter, List.mem_range'_1, Arith.real_binFreq, positive, outside, AdmittedBin, and_assoc]

theorem admittedBins_rising (N : ℕ) (rate : ℝ) (zones : List (ℝ × ℝ)) :
    (admittedBins N rate zones).Pairwise (· < ·) :=
  List.Pairwise.filter _ List.pairwise_lt_range'

/-- The detector compares the moduli of the candidates (R143). -/
theorem Arith.real_pilotBins (x : List (Cx ℝ)) (rate : ℝ) (zones : List (ℝ × ℝ)) :
    Arith.real.pilotBins x rate zones
      = (admittedBins x.length rate zones).map fun k => (k, binMagnitude x.length (realSampleAt x) k) := by
  rw [admittedBins, ← List.filterMap_eq_map, List.filterMap_filter, Arith.pilotBins]
  refine List.filterMap_congr fun k _ => ?_
  rw [Arith.real_cabs_dftBin]
  cases Arith.real.excluded zones (Arith.real.binFreq rate x.length k) <;> rfl

/-- Without an admitted bin the search fails (R143). -/
theorem Arith.real_find1_none {x : List (Cx ℝ)} {rate : ℝ} {zones : List (ℝ × ℝ)}
    (h : ¬ ∃ k, AdmittedBin x.length rate zones k) : Arith.real.find1 x rate zones = .error .errArg := by
  have empty : admittedBins x.length rate zones = [] :=
    List.eq_nil_iff_forall_not_mem.mpr fun k hk => h ⟨k, mem_admittedBins.mp hk⟩
  rw [Arith.find1, Arith.real_pilotBins, empty]
  rfl

/-- With an admitted bin the search answers the least one of greatest modulus (R143). -/
theorem Arith.real_find1_some {x : List (Cx ℝ)} {rate : ℝ} {zones : List (ℝ × ℝ)}
    (h : ∃ k, AdmittedBin x.length rate zones k) :
    ∃ f, Arith.real.find1 x rate zones = .ok f ∧ IsPilot x.length (realSampleAt x) rate zones f := by
  obtain ⟨k, hk⟩ := h
  obtain ⟨ks, hks, found, greatest⟩ := Arith.real_argmaxFirst_map (binMagnitude x.length (realSampleAt x))
    (List.ne_nil_of_mem (mem_admittedBins.mpr hk)) (admittedBins_rising x.length rate zones)
  refine ⟨ks * rate / x.length, ?_, ks, mem_admittedBins.mp hks,
    fun k' hk' => greatest k' (mem_admittedBins.mpr hk'), rfl⟩
  rw [Arith.find1, Arith.real_pilotBins, found]
  exact congrArg Except.ok (Arith.real_binFreq rate x.length ks)

/-- There is one pilot: of two bins of greatest modulus neither is less than the other. -/
theorem IsPilot.unique {N : ℕ} {x : ℤ → ℂ} {rate : ℝ} {zones : List (ℝ × ℝ)} {f g : ℝ}
    (hf : IsPilot N x rate zones f) (hg : IsPilot N x rate zones g) : f = g := by
  obtain ⟨k, hk, maxk, rfl⟩ := hf
  obtain ⟨l, hl, maxl, rfl⟩ := hg
  have notLess : ¬ k < l := fun h => ((maxl k hk).2 h).not_ge (maxk l hl).1
  have notGreater : ¬ l < k := fun h => ((maxk l hl).2 h).not_ge (maxl k hk).1
  rw [Nat.le_antisymm (not_lt.mp notGreater) (not_lt.mp notLess)]

/-- The search answers the pilot, whenever there is one (R143). -/
theorem IsPilot.find1 {x : List (Cx ℝ)} {rate : ℝ} {zones : List (ℝ × ℝ)} {f : ℝ}
    (h : IsPilot x.length (realSampleAt x) rate zones f) : Arith.real.find1 x rate zones = .ok f := by
  have ⟨ks, hks, _⟩ := h
  obtain ⟨g, found, hg⟩ := Arith.real_find1_some ⟨ks, hks⟩
  rw [found, hg.unique h]

/-- A pilot lies in no zone. -/
theorem IsPilot.not_excluded {N : ℕ} {x : ℤ → ℂ} {rate : ℝ} {zones : List (ℝ × ℝ)} {f : ℝ}
    (h : IsPilot N x rate zones f) {z : ℝ × ℝ} (hz : z ∈ zones) : ¬ (z.1 ≤ f ∧ f ≤ z.2) := by
  obtain ⟨ks, ⟨-, -, outside⟩, -, rfl⟩ := h
  exact outside z hz

/-! Two pilots. -/

/-- With a bin left outside the guard band of the first pilot, the two searches answer two pilots in rising order,
which differ, since the first pilot lies in its own guard band (R145). -/
theorem Arith.real_find2_some {x : List (Cx ℝ)} {rate G fa : ℝ} {zones : List (ℝ × ℝ)} (hG : 0 ≤ G)
    (first : IsPilot x.length (realSampleAt x) rate zones fa)
    (left : ∃ k, AdmittedBin x.length rate ((fa - G, fa + G) :: zones) k) :
    ∃ lo hi, Arith.real.find2 x rate zones G = .ok (lo, hi)
      ∧ IsPilotPair x.length (realSampleAt x) rate zones G lo hi ∧ lo < hi := by
  obtain ⟨fb, found, second⟩ := Arith.real_find1_some left
  refine ⟨min fa fb, max fa fb, ?_, ⟨fa, fb, first, second, rfl, rfl⟩, min_lt_max.mpr ?_⟩
  · simp only [Arith.find2, first.find1, Arith.real_sub, Arith.real_add, found, Arith.real_lesser, Arith.real_greater]
  · rintro rfl
    exact second.not_excluded List.mem_cons_self ⟨sub_le_self fa hG, le_add_of_nonneg_right hG⟩

/-- Without a bin for the first pilot the pair of searches fails (R145). -/
theorem Arith.real_find2_none_first {x : List (Cx ℝ)} {rate : ℝ} {zones : List (ℝ × ℝ)}
    (h : ¬ ∃ k, AdmittedBin x.length rate zones k) (G : ℝ) : Arith.real.find2 x rate zones G = .error .errArg := by
  simp only [Arith.find2, Arith.real_find1_none h]

/-- Without a bin outside the guard band of the first pilot the pair of searches fails (R145). -/
theorem Arith.real_find2_none_second {x : List (Cx ℝ)} {rate G fa : ℝ} {zones : List (ℝ × ℝ)}
    (first : IsPilot x.length (realSampleAt x) rate zones fa)
    (h : ¬ ∃ k, AdmittedBin x.length rate ((fa - G, fa + G) :: zones) k) :
    Arith.real.find2 x rate zones G = .error .errArg := by
  simp only [Arith.find2, first.find1, Arith.real_sub, Arith.real_add, Arith.real_find1_none h]

/-! The zones (10_state.md R29). -/

theorem State.zones_length (s : State) : s.zones.length = min s.cfg.numExcl.toNat Config.maxExcl := by
  simp [State.zones]

/-- Zone `i` is the pair of entries `i` of the two tables. -/
theorem State.zones_getElem? (s : State) {i : ℕ} (table : i < Config.maxExcl) (valid : i < s.cfg.numExcl.toNat) :
    s.zones[i]? = some (tableEntry s.exclLo i, tableEntry s.exclHi i) := by
  rw [State.zones, List.getElem?_map, List.getElem?_take_of_lt valid, List.getElem?_range table, Option.map_some]

/-! The commands. -/

variable {s : State} {bs : BufId}

/-- FIND1 within its checks (R142). -/
theorem find1Rule_of_checks (hN : 3 ≤ (s.buf bs).length) (hrate : 0 < s.arg.rate.toReal) :
    find1Rule s bs = (numArith.find1 (s.buf bs) s.arg.rate s.zones).map s.setN0 := by
  have checks : (decide ((s.buf bs).length < 3) || !numArith.isPos s.arg.rate) = false := by simp [hN, hrate]
  simp only [find1Rule, checks]
  cases numArith.find1 (s.buf bs) s.arg.rate s.zones <;> rfl

/-- FIND2 within its checks (R144). -/
theorem find2Rule_of_checks (hN : 3 ≤ (s.buf bs).length) (hrate : 0 < s.arg.rate.toReal)
    (hG : 0 ≤ s.arg.guard.toReal) :
    find2Rule s bs = (numArith.find2 (s.buf bs) s.arg.rate s.zones s.arg.guard).map
      fun f => (s.setN0 f.1).setN1 f.2 := by
  have checks : (decide ((s.buf bs).length < 3) || !numArith.isPos s.arg.rate
      || !numArith.le numArith.zero s.arg.guard) = false := by simp [hN, hrate, hG]
  simp only [find2Rule, checks]
  cases numArith.find2 (s.buf bs) s.arg.rate s.zones s.arg.guard <;> rfl

/-- FIND1 completes with the pilot of its source (R142). -/
theorem exec_find1_some (hN : 3 ≤ (s.buf bs).length) (hrate : 0 < s.arg.rate.toReal)
    (h : ∃ k, AdmittedBin (s.buf bs).length s.arg.rate.toReal (zoneValues s.zones) k) :
    ∃ f : NUM, exec (.find1 bs) s = .next (s.setN0 f).finished
      ∧ IsPilot (s.buf bs).length (sampleAt (s.buf bs)) s.arg.rate.toReal (zoneValues s.zones) f.toReal := by
  rw [← valuesOf_length] at h
  obtain ⟨f', found, pilot⟩ := Arith.real_find1_some h
  rw [← numArith_find1] at found
  obtain ⟨f, hf, rfl⟩ := Except.exists_ok_of_map found
  rw [realSampleAt_valuesOf, valuesOf_length] at pilot
  refine ⟨f, exec_of_ruleOf_ok (by simp) ?_, pilot⟩
  rw [ruleOf, find1Rule_of_checks hN hrate, hf, Except.mapped_ok]

/-- FIND1 without an admitted bin fails (R142). -/
theorem exec_find1_none (hN : 3 ≤ (s.buf bs).length) (hrate : 0 < s.arg.rate.toReal)
    (h : ¬ ∃ k, AdmittedBin (s.buf bs).length s.arg.rate.toReal (zoneValues s.zones) k) :
    exec (.find1 bs) s = .next (s.failedWith .errArg) := by
  rw [← valuesOf_length] at h
  have none := Except.error_of_map ((numArith_find1 (s.buf bs) s.arg.rate s.zones).trans (Arith.real_find1_none h))
  refine exec_of_ruleOf_error (by simp) ?_
  rw [ruleOf, find1Rule_of_checks hN hrate, none, Except.mapped_error]

/-- Settles O30: the first maximum of the moduli over the admitted bins. -/
theorem find1Result : Obligations.Find1Result := by
  refine ⟨fun x rate zones _ => ⟨Arith.real_find1_none, Arith.real_find1_some⟩, fun bs s hN hrate => ?_⟩
  refine ⟨exec_find1_some hN hrate, or_iff_not_imp_left.mpr (exec_find1_none hN hrate), s.zones_length,
    fun i valid => ⟨_, _, rfl, rfl, s.zones_getElem? i.isLt valid⟩⟩

/-- FIND2 completes with the two pilots, when a bin is left outside the guard band of the first (R144). -/
theorem exec_find2_some (hN : 3 ≤ (s.buf bs).length) (hrate : 0 < s.arg.rate.toReal)
    (hG : 0 ≤ s.arg.guard.toReal) {fa : ℝ}
    (first : IsPilot (s.buf bs).length (sampleAt (s.buf bs)) s.arg.rate.toReal (zoneValues s.zones) fa)
    (left : ∃ k, AdmittedBin (s.buf bs).length s.arg.rate.toReal
      ((fa - s.arg.guard.toReal, fa + s.arg.guard.toReal) :: zoneValues s.zones) k) :
    ∃ n0 n1 : NUM, exec (.find2 bs) s = .next ((s.setN0 n0).setN1 n1).finished
      ∧ IsPilotPair (s.buf bs).length (sampleAt (s.buf bs)) s.arg.rate.toReal (zoneValues s.zones)
          s.arg.guard.toReal n0.toReal n1.toReal
      ∧ n0.toReal < n1.toReal := by
  rw [← valuesOf_length] at left
  rw [← valuesOf_length, ← realSampleAt_valuesOf] at first
  obtain ⟨lo, hi, found, pair, rising⟩ := Arith.real_find2_some hG first left
  rw [← numArith_find2] at found
  obtain ⟨⟨n0, n1⟩, hf, ⟨⟩⟩ := Except.exists_ok_of_map found
  rw [realSampleAt_valuesOf, valuesOf_length] at pair
  refine ⟨n0, n1, exec_of_ruleOf_ok (by simp) ?_, pair, rising⟩
  rw [ruleOf, find2Rule_of_checks hN hrate hG, hf, Except.mapped_ok]

/-- FIND2 fails when one of its two searches has no bin (R144). -/
theorem exec_find2_none (hN : 3 ≤ (s.buf bs).length) (hrate : 0 < s.arg.rate.toReal)
    (hG : 0 ≤ s.arg.guard.toReal)
    (h : NoPilotPair (s.buf bs).length (sampleAt (s.buf bs)) s.arg.rate.toReal (zoneValues s.zones)
      s.arg.guard.toReal) :
    exec (.find2 bs) s = .next (s.failedWith .errArg) := by
  have real : Arith.real.find2 (valuesOf (s.buf bs)) s.arg.rate.toReal (zoneValues s.zones) s.arg.guard.toReal
      = .error .errArg := by
    rw [← valuesOf_length, ← realSampleAt_valuesOf] at h
    obtain noFirst | ⟨fa, first, noSecond⟩ := h
    · exact Arith.real_find2_none_first noFirst _
    · exact Arith.real_find2_none_second first noSecond
  have none := Except.error_of_map ((numArith_find2 (s.buf bs) s.arg.rate s.zones s.arg.guard).trans real)
  refine exec_of_ruleOf_error (by simp) ?_
  rw [ruleOf, find2Rule_of_checks hN hrate hG, none, Except.mapped_error]

/-- Settles O31: the pair exists for the one pilot that the first search can find. -/
theorem find2Result : Obligations.Find2Result := by
  intro bs s hN hrate hG
  refine ⟨fun some everyGuard => ?_, fun fa first => exec_find2_some hN hrate hG first,
    fun fa first left => exec_find2_none hN hrate hG (.inr ⟨fa, first, left⟩),
    or_iff_not_imp_left.mpr fun no => exec_find2_none hN hrate hG (.inl no)⟩
  obtain ⟨f, -, pilot⟩ := exec_find1_some hN hrate some
  have ⟨ka, admitted, _, hf⟩ := pilot
  exact exec_find2_some hN hrate hG pilot (hf ▸ everyGuard ka admitted)

end Sys2Proof.Machine
end

section
/-! Tone recovery (42_pilot_tone.md R146 to R148): the low-pass design and `tone` over the exact reals, and the
command TONE. -/

namespace Sys2Proof.Machine

/-! The design. -/

theorem Arith.real_sinc (t : ℝ) : Arith.real.sinc t = sincOf t := by
  simp [Arith.sinc, sincOf]

/-- The Hamming window (R146). -/
theorem Arith.real_hamming (T n : ℕ) :
    Arith.real.hamming T n
      = if T = 1 then 1 else 0.54 - 0.46 * Real.cos (2 * Real.pi * n / ((T : ℝ) - 1)) := by
  have turn : Real.pi * ((2 * (n : ℚ) / ((T : ℚ) - 1) : ℚ) : ℝ) = 2 * Real.pi * n / ((T : ℝ) - 1) := by
    push_cast
    ring
  simp only [Arith.hamming, Arith.real_mul, Arith.real_pi, Arith.real_rat, turn, Arith.real_one, Arith.real_sub,
    Arith.real_cos]
  norm_num

theorem Arith.real_lowpassTap (T : ℕ) (fc fs : ℝ) (n : ℕ) :
    Arith.real.lowpassTap T fc fs n = designTap T fc fs n := by
  simp [Arith.lowpassTap, designTap, Arith.real_sinc, Arith.real_hamming]

/-- The taps of the design: windowed, and divided by their sum (R146). -/
noncomputable def designTaps (T : ℕ) (fc fs : ℝ) : List ℝ :=
  (List.range T).map fun n => designTap T fc fs n / designSum T fc fs

@[simp] theorem designTaps_length (T : ℕ) (fc fs : ℝ) : (designTaps T fc fs).length = T := by
  simp [designTaps]

/-- The design, which fails when the taps sum to 0 (R146). -/
theorem Arith.real_lowpass (T : ℕ) (fc fs : ℝ) :
    Arith.real.lowpass T fc fs = if designSum T fc fs = 0 then .error .errNumeric else .ok (designTaps T fc fs) := by
  have total : Arith.real.sumTo (Arith.real.lowpassTap T fc fs) T = designSum T fc fs := by
    simp only [Arith.real_sumTo, Arith.real_lowpassTap, designSum]
  simp only [Arith.lowpass, total]
  refine if_congr (by simp) rfl ?_
  simp only [Arith.real_div, Arith.real_lowpassTap, designTaps]

theorem sincOf_neg (t : ℝ) : sincOf (-t) = sincOf t := by
  simp [sincOf, neg_div_neg_eq]

/-- The taps are symmetric: `sinc` is even, and the window's cosine at `T − 1 − n` is that at `n` less a whole turn
(R146). -/
theorem designTap_symm {T n : ℕ} (fc fs : ℝ) (h : n < T) : designTap T fc fs (T - 1 - n) = designTap T fc fs n := by
  have index : ((T - 1 - n : ℕ) : ℝ) = T - 1 - n := by
    rw [Nat.cast_sub (by omega), Nat.cast_sub (by omega), Nat.cast_one]
  have offset : 2 * fc * ((T - 1 - n : ℝ) - ((T : ℝ) - 1) / 2) / fs = -(2 * fc * (n - ((T : ℝ) - 1) / 2) / fs) := by
    ring
  rw [designTap, designTap, index, offset, sincOf_neg]
  split
  · rfl
  next more =>
    have nonzero : (T : ℝ) - 1 ≠ 0 := sub_ne_zero.mpr (by exact_mod_cast more)
    have turn : 2 * Real.pi * (T - 1 - n : ℝ) / ((T : ℝ) - 1)
        = 2 * Real.pi - 2 * Real.pi * n / ((T : ℝ) - 1) := by
      field_simp
    rw [turn, Real.cos_two_pi_sub]

theorem designTaps_reverse (T : ℕ) (fc fs : ℝ) : (designTaps T fc fs).reverse = designTaps T fc fs := by
  refine List.ext_getElem (by simp) fun n hn _ => ?_
  rw [List.length_reverse, designTaps_length] at hn
  simp [designTaps, designTap_symm fc fs hn]

/-- Unit gain at frequency 0 (R146). -/
theorem designTaps_sum {T : ℕ} {fc fs : ℝ} (h : designSum T fc fs ≠ 0) : (designTaps T fc fs).sum = 1 := by
  have total : (designTaps T fc fs).sum = ∑ n ∈ Finset.range T, designTap T fc fs n / designSum T fc fs := rfl
  rw [total, ← Finset.sum_div]
  exact div_self h

/-- Settles O33: the design, its symmetry and its unit gain. -/
theorem lowpassUnitGain : Obligations.LowpassUnitGain := fun T fc fs _ _ _ =>
  ⟨Arith.real_lowpass T fc fs, designTaps_reverse T fc fs, or_iff_not_imp_left.mpr designTaps_sum⟩

/-! The tone filter. -/

/-- The modulated taps (R147). -/
theorem realSampleAt_toneTaps {T k : ℕ} (f0 fc fs : ℝ) (h : k < T) :
    realSampleAt (Arith.real.toneTaps (designTaps T fc fs) f0 fs) k = toneTapOf T fc fs f0 k := by
  have offset : (((k : ℤ) - centre T : ℤ) : ℝ) = k - ((T - 1) / 2 : ℕ) := by
    rw [Int.cast_sub, Int.cast_natCast, Int.cast_natCast, centre]
  rw [Arith.toneTaps, designTaps_length, realSampleAt_map_range _ h, Arith.real_cscale, Arith.real_cis,
    Arith.real_relem _ (by simpa using h), Arith.real_int, offset]
  simp [designTaps, toneTapOf, cisOf]

/-- The checks of `tone` on rate and cutoff (R147, R148). -/
theorem Arith.real_cutoffOk (fc fs : ℝ) : Arith.real.cutoffOk fc fs = true ↔ 0 < fc ∧ fc < fs / 2 := by
  simp [Arith.cutoffOk]

/-- The operands that `tone` and the commands TONE and EQRATE accept as design (R147, R148, R152). -/
structure DesignOk (T : ℕ) (fc fs : ℝ) : Prop where
  taps : T ≠ 0
  rate : 0 < fs
  cutoff : 0 < fc
  belowHalf : fc < fs / 2

theorem Arith.real_tone {T : ℕ} {fc fs : ℝ} (ok : DesignOk T fc fs) (x : List (Cx ℝ)) (f0 : ℝ) :
    Arith.real.tone x f0 fs T fc
      = if designSum T fc fs = 0 then .error .errNumeric
        else .ok (Arith.real.convSame x (Arith.real.toneTaps (designTaps T fc fs) f0 fs)) := by
  have cutoff := (Arith.real_cutoffOk fc fs).mpr ⟨ok.cutoff, ok.belowHalf⟩
  have checks : (T == 0 || !Arith.real.isPos fs || !Arith.real.cutoffOk fc fs) = false := by
    simp [ok.taps, ok.rate, cutoff]
  rw [Arith.tone_eq_bind, checks, if_neg Bool.false_ne_true, Arith.real_lowpass]
  split <;> rfl

/-- The filtered tone by the formula of R147. -/
theorem realSampleAt_tone (x : List (Cx ℝ)) (T : ℕ) (fc fs f0 : ℝ) {n : ℕ} (hn : n < x.length) :
    realSampleAt (Arith.real.convSame x (Arith.real.toneTaps (designTaps T fc fs) f0 fs)) n
      = toneOf T fc fs f0 (realSampleAt x) n := by
  have length : (Arith.real.toneTaps (designTaps T fc fs) f0 fs).length = T := by simp [Arith.toneTaps]
  rw [Arith.real_convSame x _ hn, length, toneOf]
  exact Finset.sum_congr rfl fun k hk => by rw [realSampleAt_toneTaps f0 fc fs (Finset.mem_range.mp hk), centre]

/-- When the taps do not sum to 0, `tone` answers the filtered tone (R147). -/
theorem Arith.real_tone_some {T : ℕ} {fc fs : ℝ} (ok : DesignOk T fc fs) (hS : designSum T fc fs ≠ 0)
    (x : List (Cx ℝ)) (f0 : ℝ) :
    ∃ t, Arith.real.tone x f0 fs T fc = .ok t ∧ t.length = x.length
      ∧ ∀ n : ℕ, n < x.length → realSampleAt t n = toneOf T fc fs f0 (realSampleAt x) n := by
  refine ⟨_, ?_, Arith.convSame_length _ x _, fun n hn => realSampleAt_tone x T fc fs f0 hn⟩
  rw [Arith.real_tone ok, if_neg hS]

/-- When the taps sum to 0, `tone` fails (R146, R147). -/
theorem Arith.real_tone_none {T : ℕ} {fc fs : ℝ} (ok : DesignOk T fc fs) (hS : designSum T fc fs = 0)
    (x : List (Cx ℝ)) (f0 : ℝ) : Arith.real.tone x f0 fs T fc = .error .errNumeric := by
  rw [Arith.real_tone ok, if_pos hS]

/-! The command. -/

variable {s : State} {bd bs : BufId}

/-- TONE within its checks (R148). -/
theorem toneRule_of_checks (dest : destinationOk bd [bs] = true)
    (ok : DesignOk s.cfg.firSize.toNat s.cfg.toneCutoff.toReal s.arg.rate.toReal)
    (hN : s.cfg.firSize.toNat ≤ (s.buf bs).length) :
    toneRule s bd bs = (numArith.tone (s.buf bs) s.arg.freq s.arg.rate s.cfg.firSize.toNat s.cfg.toneCutoff).map
      (s.setBuf bd) := by
  have cutoff := (Arith.real_cutoffOk _ _).mpr ⟨ok.cutoff, ok.belowHalf⟩
  have checks : (s.cfg.firSize.toNat == 0 || decide ((s.buf bs).length < s.cfg.firSize.toNat)
      || !numArith.isPos s.arg.rate || !numArith.cutoffOk s.cfg.toneCutoff s.arg.rate) = false := by
    simp [ok.taps, ok.rate, cutoff, hN]
  simp only [toneRule, dest, checks]
  cases numArith.tone (s.buf bs) s.arg.freq s.arg.rate s.cfg.firSize.toNat s.cfg.toneCutoff <;> rfl

/-- Settles O32: the filtered tone over the exact reals, and TONE as the same function on the machine's terms. -/
theorem toneResult : Obligations.ToneResult := by
  intro bd bs s dest T fs fc hT hN hfs hfc below
  have ok : DesignOk T fc fs := ⟨hT, hfs, hfc, below⟩
  have rule : ruleOf (.tone bd bs) s = _ := toneRule_of_checks dest ok hN
  have reading := numArith_tone (s.buf bs) s.arg.freq s.arg.rate T s.cfg.toneCutoff
  refine ⟨fun hS => ?_, or_iff_not_imp_left.mpr fun hS => ?_⟩
  · obtain ⟨t, found, length, elements⟩ := Arith.real_tone_some ok hS (valuesOf (s.buf bs)) s.arg.freq.toReal
    obtain ⟨y, hy, rfl⟩ := Except.exists_ok_of_map (reading.trans found)
    rw [hy, Except.mapped_ok] at rule
    simp only [valuesOf_length, realSampleAt_valuesOf] at length elements
    exact ⟨y, exec_of_ruleOf_ok (by simp) rule, length, fun n hn => elements n (length ▸ hn)⟩
  · have none := Arith.real_tone_none ok (not_not.mp hS) (valuesOf (s.buf bs)) s.arg.freq.toReal
    rw [Except.error_of_map (reading.trans none), Except.mapped_error] at rule
    exact exec_of_ruleOf_error (by simp) rule

end Sys2Proof.Machine
end

section
/-! Equivalent sample-rate estimation (42_pilot_tone.md R150 to R152): unwrapping, slope and phase difference by their
formulas, `eqrate` over the exact reals, and the command EQRATE. -/

namespace Sys2Proof.Machine

/-! Unwrapping and slope by their formulas (00_scope.md R9, R12). -/

/-- The three cases of a step are those of the formula (R9). -/
theorem Arith.real_wstep (d : ℝ) : Arith.real.wstep d = wstepOf d := by
  rw [wstepOf]
  split
  next small => exact Arith.real_wstep_small small
  next large =>
    split
    next positive =>
      rw [not_le, abs_of_pos positive] at large
      exact Arith.real_wstep_forward large
    next negative =>
      rw [not_le, abs_of_nonpos (not_lt.mp negative)] at large
      exact Arith.real_wstep_backward (lt_neg_of_lt_neg large)

/-- An unwrapped element depends on the elements up to it only (R9). -/
theorem unwrapOf_congr {p q : ℕ → ℝ} {N : ℕ} (h : ∀ n < N, p n = q n) {n : ℕ} (hn : n < N) :
    unwrapOf p n = unwrapOf q n := by
  induction n with
  | zero => exact h 0 hn
  | succ n ih =>
    have before : n < N := Nat.lt_of_succ_lt hn
    rw [unwrapOf, unwrapOf, ih before, h n before, h (n + 1) hn]

/-- The unwrapped sequence by the formula (R9). -/
theorem Arith.real_unwrap (p : List ℝ) {n : ℕ} (hn : n < p.length) :
    (Arith.real.unwrap p).getD n 0 = unwrapOf (fun k => p.getD k 0) n := by
  induction n with
  | zero => cases p <;> rfl
  | succ n ih => rw [Arith.real_unwrap_step p n hn, ih (Nat.lt_of_succ_lt hn), unwrapOf, Arith.real_wstep]

/-- The slope by the formula (R12). -/
theorem Arith.real_slope_eq_slopeOf {t y : List ℝ} (h : t.length = y.length) :
    Arith.real.slope t y = slopeOf t.length (Arith.real.relem t) (Arith.real.relem y) := by
  have mean (l : List ℝ) :
      Arith.real.mean l = (∑ n ∈ Finset.range l.length, Arith.real.relem l n) / l.length := by
    rw [Arith.real_mean, one_div_mul_eq_div]
  rw [Arith.real_slope, mean t, mean y, ← h, slopeOf]

/-- The slope of `N` points depends on these points only (R12). -/
theorem slopeOf_congr {N : ℕ} {t t' y y' : ℕ → ℝ} (ht : ∀ n < N, t n = t' n) (hy : ∀ n < N, y n = y' n) :
    slopeOf N t y = slopeOf N t' y' := by
  have sum {f g : ℕ → ℝ} (h : ∀ n < N, f n = g n) : ∑ n ∈ Finset.range N, f n = ∑ n ∈ Finset.range N, g n :=
    Finset.sum_congr rfl fun n hn => h n (Finset.mem_range.mp hn)
  simp only [slopeOf, sum ht, sum hy]
  congr 1
  · exact sum fun n hn => by rw [ht n hn, hy n hn]
  · exact sum fun n hn => by rw [ht n hn]

/-! The phase difference (R150). -/

/-- The principal argument; it is 0 at 0 under both readings (00_scope.md R8). -/
theorem Arith.real_angle (z : Cx ℝ) : Arith.real.angle z = Complex.arg z.toComplex := by
  rw [Arith.angle]
  split
  next zero =>
    obtain ⟨re, im⟩ : z.re = 0 ∧ z.im = 0 := by simpa using zero
    have origin : z.toComplex = 0 := Complex.ext re im
    rw [origin, Complex.arg_zero, Arith.real_zero]
  next => rfl

/-- The phase difference of a tone from element to element (R150). -/
theorem phasediffOf_congr {t t' : ℤ → ℂ} {N : ℕ} (f fs : ℝ) (h : ∀ n : ℕ, n < N → t n = t' n) {n : ℕ} (hn : n < N) :
    phasediffOf t f fs n = phasediffOf t' f fs n :=
  unwrapOf_congr (fun k hk => by rw [h k hk]) hn

/-- The phase difference by the formula (R150). -/
theorem Arith.real_phasediff (t : List (Cx ℝ)) (f fs : ℝ) {n : ℕ} (hn : n < t.length) :
    Arith.real.relem (Arith.real.phasediff t f fs) n = phasediffOf (realSampleAt t) f fs n := by
  rw [Arith.relem, Arith.real_zero, Arith.phasediff, Arith.real_unwrap _ (by simpa using hn)]
  refine unwrapOf_congr (fun k hk => ?_) hn
  rw [List.getD_eq_getElem _ _ (by simpa using hk), List.getElem_map, List.getElem_range, Arith.real_sub,
    Arith.real_angle, Arith.real_angle, Arith.real_cis, ← realSampleAt_natCast]
  simp [cisOf]

/-! The residual (R151). -/

/-- The residual of a tone that has the elements of the filtered tone (R151). -/
theorem Arith.real_residual {t : List (Cx ℝ)} {x : ℤ → ℂ} {T : ℕ} {f fs fc : ℝ}
    (elements : ∀ n : ℕ, n < t.length → realSampleAt t n = toneOf T fc fs f x n) :
    Arith.real.residual t t.length f fs = residualOf t.length x f fs T fc := by
  have times (n : ℕ) (hn : n < t.length) :
      Arith.real.relem ((List.range t.length).map fun n => Arith.real.div (Arith.real.nat n) fs) n = n / fs := by
    rw [Arith.real_relem _ (by simpa using hn)]
    simp
  have phases (n : ℕ) (hn : n < t.length) :
      Arith.real.relem (Arith.real.phasediff t f fs) n = phasediffOf (toneOf T fc fs f x) f fs n :=
    (Arith.real_phasediff t f fs hn).trans (phasediffOf_congr f fs elements hn)
  rw [Arith.residual, Arith.real_div, Arith.real_twoPi, Arith.real_slope_eq_slopeOf (by simp), List.length_map,
    List.length_range, slopeOf_congr times phases, residualOf]

variable {x : List (Cx ℝ)} {f fc fs : ℝ} {T : ℕ}

/-- The checks of `eqrate` on its length and its frequency (R151). -/
theorem eqrate_checks {N : ℕ} (hN : 2 ≤ N) (hf : f ≠ 0) :
    (decide (N < 2) || Arith.real.eq f Arith.real.zero) = false := by
  simp [Nat.lt_of_succ_le hN, hf]

/-- When the taps do not sum to 0, `eqrate` has its residual from the formula, and fails only when the residual is
`−f` (R151). -/
theorem Arith.real_eqrate (ok : DesignOk T fc fs) (hN : 2 ≤ x.length) (hf : f ≠ 0) (hS : designSum T fc fs ≠ 0) :
    let Δf := residualOf x.length (realSampleAt x) f fs T fc
    Arith.real.eqrate x f fs T fc
      = if f + Δf = 0 then .error .errNumeric else .ok (fs / ((f + Δf) / f), Δf) := by
  obtain ⟨t, found, length, elements⟩ := Arith.real_tone_some ok hS x f
  have residual := Arith.real_residual (length ▸ elements)
  rw [length] at residual
  have checks := eqrate_checks hN hf
  rw [Arith.eqrate_eq_bind, checks, found]
  dsimp only [bind, Except.bind]
  simp only [residual, Arith.real_eq, Arith.real_add, Arith.real_div, Arith.real_zero]
  simp

/-- When the taps sum to 0, `eqrate` fails (R146, R151). -/
theorem Arith.real_eqrate_none (ok : DesignOk T fc fs) (hN : 2 ≤ x.length) (hf : f ≠ 0)
    (hS : designSum T fc fs = 0) : Arith.real.eqrate x f fs T fc = .error .errNumeric := by
  have checks := eqrate_checks hN hf
  rw [Arith.eqrate_eq_bind, checks, Arith.real_tone_none ok hS]
  rfl

/-! The command. -/

/-- EQRATE within its checks (R152). -/
theorem eqrateRule_of_checks {s : State} {bs : BufId}
    (ok : DesignOk s.cfg.firSize.toNat s.cfg.toneCutoff.toReal s.arg.rate.toReal)
    (hT : s.cfg.firSize.toNat ≤ (s.buf bs).length) (hN : 2 ≤ (s.buf bs).length) (hf : s.arg.freq.toReal ≠ 0) :
    eqrateRule s bs
      = (numArith.eqrate (s.buf bs) s.arg.freq s.arg.rate s.cfg.firSize.toNat s.cfg.toneCutoff).map
        fun r => (s.setN0 r.1).setN1 r.2 := by
  have cutoff := (Arith.real_cutoffOk _ _).mpr ⟨ok.cutoff, ok.belowHalf⟩
  have checks : (s.cfg.firSize.toNat == 0 || decide ((s.buf bs).length < s.cfg.firSize.toNat)
      || decide ((s.buf bs).length < 2) || numArith.eq s.arg.freq numArith.zero || !numArith.isPos s.arg.rate
      || !numArith.cutoffOk s.cfg.toneCutoff s.arg.rate) = false := by
    simp [ok.taps, ok.rate, cutoff, hT, Nat.lt_of_succ_le hN, hf]
  simp only [eqrateRule, checks]
  cases numArith.eqrate (s.buf bs) s.arg.freq s.arg.rate s.cfg.firSize.toNat s.cfg.toneCutoff <;> rfl

/-- Settles O34: `eqrate` over the exact reals, and EQRATE as the same function on the machine's terms. -/
theorem eqrateResult : Obligations.EqrateResult := by
  intro bs s N T f fs fc Δf hT taps hN hf hfs hfc below
  have ok : DesignOk T fc fs := ⟨hT, hfs, hfc, below⟩
  have hN' : 2 ≤ (valuesOf (s.buf bs)).length := by rwa [valuesOf_length]
  have rule : ruleOf (.eqrate bs) s = _ := eqrateRule_of_checks ok taps hN hf
  have reading := numArith_eqrate (s.buf bs) s.arg.freq s.arg.rate T s.cfg.toneCutoff
  have fails (none : Arith.real.eqrate (valuesOf (s.buf bs)) f fs T fc = .error .errNumeric) :
      exec (.eqrate bs) s = .next (s.failedWith .errNumeric) := by
    rw [Except.error_of_map (reading.trans none), Except.mapped_error] at rule
    exact exec_of_ruleOf_error (by simp) rule
  have designed (hS : designSum T fc fs ≠ 0) : Arith.real.eqrate (valuesOf (s.buf bs)) f fs T fc
      = if f + Δf = 0 then .error .errNumeric else .ok (fs / ((f + Δf) / f), Δf) := by
    have value := Arith.real_eqrate ok hN' hf hS
    rwa [valuesOf_length, realSampleAt_valuesOf] at value
  refine ⟨fun hS nonzero => ?_, fun hS zero => fails ((designed hS).trans (if_pos zero)),
    or_iff_not_imp_left.mpr fun hS => fails (Arith.real_eqrate_none ok hN' hf (not_not.mp hS))⟩
  obtain ⟨⟨n0, n1⟩, found, values⟩ := Except.exists_ok_of_map (reading.trans ((designed hS).trans (if_neg nonzero)))
  obtain ⟨rate, residual⟩ := Prod.mk.inj values
  rw [found, Except.mapped_ok] at rule
  exact ⟨n0, n1, exec_of_ruleOf_ok (by simp) rule, residual, rate⟩

end Sys2Proof.Machine
end

section
/-! The sampling positions of the resampler over the exact reals (40_resampler.md R102): the phase corrector samples
its trajectory at them (43_phase_corrector.md R175). -/

namespace Sys2Proof.Machine

@[simp] theorem Arith.real_pos (start : ℕ) (f : ℝ) (k : ℕ) : Arith.real.pos start f k = posOf start f k := by
  simp [Arith.pos, Arith.rhd, posOf]

variable {start k N : ℕ} {f : ℝ}

/-- A position before `N`, said without rounding (R102, R5). -/
theorem posOf_lt_iff : posOf start f k < N ↔ k * f ≤ N - start - 1 / 2 := by
  rw [posOf, ← Int.le_sub_one_iff, Int.ceil_le]
  push_cast
  constructor <;> intro h <;> linarith

/-- Rounding half down leaves no position before the first sample. -/
theorem posOf_nonneg (hf : 0 < f) : 0 ≤ posOf start f k := by
  refine Int.ceil_nonneg_of_neg_one_lt ?_
  have offset : 0 ≤ (start : ℝ) + k * f := by positivity
  linarith

/-- The samples that are taken are those at the positions before the end (R102). -/
theorem Arith.lt_real_downsampleLen_iff (hf : 0 < f) :
    k < Arith.real.downsampleLen N start f ↔ posOf start f k < N := by
  rw [posOf_lt_iff, Arith.downsampleLen]
  have product : 0 ≤ k * f := by positivity
  split
  next outside =>
    have late : (N : ℝ) ≤ start := by exact_mod_cast outside
    constructor
    · intro h
      cases h
    · intro h
      linarith
  next inside =>
    have early : (start : ℝ) + 1 ≤ N := by exact_mod_cast not_le.mp inside
    have last : 0 ≤ ((N : ℝ) - start - 1 / 2) / f := div_nonneg (by linarith) hf.le
    rw [Nat.lt_succ_iff, Arith.real_div, Arith.real_rat, Arith.real_floor, Int.floor_toNat]
    push_cast
    rw [Nat.le_floor_iff last, le_div_iff₀ hf]

/-- A sample that is taken is the one at its position (R102). -/
theorem Arith.real_relem_downsample (hf : 0 < f) {φ : List ℝ} (h : posOf start f k < φ.length) :
    Arith.real.relem (Arith.real.downsample Arith.real.zero φ start f) k
      = Arith.real.relem φ (posOf start f k).toNat := by
  have taken : k < Arith.real.downsampleLen φ.length start f := (Arith.lt_real_downsampleLen_iff hf).mpr h
  rw [Arith.real_relem _ (by simpa using taken)]
  simp [Arith.downsample, Arith.relem]

end Sys2Proof.Machine
end

section
/-! The phase corrector over the exact reals (43_phase_corrector.md R172 to R175), and the commands PHNOISE and
PHCORR. -/

namespace Sys2Proof.Machine

/-! The moving average (R172). -/

/-- A window of 0 or 1 is off (R172). -/
theorem Arith.smooth_off {R : Type} (A : Arith R) (φ : List R) {W : ℕ} (h : W ≤ 1) : A.smooth φ W = φ := by
  rw [Arith.smooth, if_pos h]

/-- The mean of a part of a sequence, over the indices of the sequence (R7). -/
theorem Arith.real_mean_slice (φ : List ℝ) {lo hi : ℕ} (h : hi ≤ φ.length) :
    Arith.real.mean (slice φ lo hi) = (∑ j ∈ Finset.Ico lo hi, Arith.real.relem φ j) / (hi - lo : ℕ) := by
  have length : (slice φ lo hi).length = hi - lo := by
    rw [slice_length]
    omega
  have element (j : ℕ) (hj : j < hi - lo) :
      Arith.real.relem (slice φ lo hi) j = Arith.real.relem φ (lo + j) := by
    rw [Arith.relem, Arith.relem, slice, List.getD_eq_getElem?_getD, List.getD_eq_getElem?_getD,
      List.getElem?_take_of_lt hj, List.getElem?_drop]
  rw [Arith.real_mean, length, one_div_mul_eq_div, Finset.sum_Ico_eq_sum_range]
  exact congrArg (· / _) (Finset.sum_congr rfl fun j hj => element j (Finset.mem_range.mp hj))

/-- The moving average by the formula, whether the window is off or on (R172). -/
theorem Arith.real_smooth (φ : List ℝ) (W : ℕ) {n : ℕ} (hn : n < φ.length) :
    (Arith.real.smooth φ W)[n]? = some (smoothOf φ.length W (Arith.real.relem φ) n) := by
  rcases le_or_gt W 1 with off | on
  · rw [Arith.smooth_off _ φ off, smoothOf, if_pos off, Arith.real_relem φ hn, List.getElem?_eq_getElem hn]
  · have inside : min (φ.length - 1) (n + W / 2) + 1 ≤ φ.length := by omega
    rw [Arith.smooth, if_neg on.not_ge, smoothOf, if_neg on.not_ge, List.getElem?_map, List.getElem?_range hn,
      Option.map_some, Arith.real_mean_slice φ inside]
    rfl

/-- Settles O37: the two cases of the formula. -/
theorem smoothMeans : Obligations.SmoothMeans := by
  refine fun φ W => ⟨Arith.smooth_off _ φ, fun on => ⟨Arith.smooth_length _ φ W, fun n hn => ?_⟩⟩
  have off : ¬ W ≤ 1 := Nat.not_le.mpr on
  rw [Arith.real_smooth φ W hn, smoothOf, if_neg off]
  simp only [Arith.relem, Arith.real_zero]

/-- The moving average of `N` points depends on these points only (R172). -/
theorem smoothOf_congr {N W : ℕ} {φ ψ : ℕ → ℝ} (h : ∀ n < N, φ n = ψ n) {n : ℕ} (hn : n < N) :
    smoothOf N W φ n = smoothOf N W ψ n := by
  rw [smoothOf, smoothOf, h n hn]
  refine if_congr Iff.rfl rfl (congrArg (· / _) (Finset.sum_congr rfl fun j hj => h j ?_))
  have last := (Finset.mem_Icc.mp hj).2
  omega

/-! The phase noise of a tone (R173). -/

/-- A real sequence as a complex one. -/
theorem realSampleAt_ofReals (l : List ℝ) {n : ℕ} (hn : n < l.length) :
    realSampleAt (Arith.real.ofReals l) n = (Arith.real.relem l n : ℂ) := by
  rw [realSampleAt_natCast, Arith.elem, List.getD_eq_getElem _ _ (by simpa using hn), Arith.real_relem l hn]
  simp [Arith.ofReals]

/-- The smoothed phase difference by the formulas (R173). -/
theorem Arith.real_phnoise (t : List (Cx ℝ)) (f fs : ℝ) (W : ℕ) {n : ℕ} (hn : n < t.length) :
    Arith.real.relem (Arith.real.phnoise t f fs W) n
      = smoothOf t.length W (phasediffOf (realSampleAt t) f fs) n := by
  have smoothed := Arith.real_smooth (Arith.real.phasediff t f fs) W (n := n) (by simpa using hn)
  rw [Arith.relem, Arith.phnoise, List.getD_eq_getElem?_getD, smoothed, Option.getD_some, Arith.phasediff_length]
  exact smoothOf_congr (fun k hk => Arith.real_phasediff t f fs hk) hn

variable {s : State} {bd bs bt : BufId}

/-- PHNOISE within its checks (R171). -/
theorem phnoiseRule_of_checks (dest : destinationOk bd [bs] = true) (source : s.buf bs ≠ [])
    (hfs : 0 < s.arg.rate.toReal) :
    phnoiseRule s bd bs = .ok (s.setBuf bd (numArith.ofReals
      (numArith.phnoise (s.buf bs) s.arg.freq s.arg.rate s.cfg.phaseFilterSize.toNat))) := by
  simp [phnoiseRule, dest, source, hfs]

/-- Settles O35: `phnoise` over the exact reals, and PHNOISE as the same function on the machine's terms. -/
theorem phnoiseResult : Obligations.PhnoiseResult := by
  intro bd bs s dest source hfs
  refine ⟨_, exec_of_ruleOf_ok (by simp) (phnoiseRule_of_checks dest source hfs), by simp, fun n hn => ?_⟩
  have inside : n < (valuesOf (s.buf bs)).length := by simpa using hn
  rw [← realSampleAt_valuesOf, numArith_ofReals_values, numArith_phnoise_toReal,
    realSampleAt_ofReals _ (by simpa using inside), Arith.real_phnoise _ _ _ _ inside, realSampleAt_valuesOf,
    valuesOf_length]

/-! The correction of the symbols (R175). -/

/-- The trajectory that a buffer holds is that of the real parts of its elements (R174). -/
theorem Arith.real_relem_reals (x : List (Cx NUM)) (n : ℕ) :
    Arith.real.relem ((reals x).map NUM.toReal) n = (sampleAt x n).re := by
  have inside : (0 : ℤ) ≤ n := Int.natCast_nonneg n
  rw [sampleAt, if_pos inside, Int.toNat_natCast, Arith.relem, List.getD_eq_getElem?_getD, reals, List.map_map,
    List.getElem?_map, Arith.real_zero]
  cases x[n]? <;> rfl

variable {y : List (Cx ℝ)} {φ : List ℝ} {start : ℕ} {f : ℝ}

/-- The trajectory is long enough when it has the position of the last symbol (R175). -/
theorem length_le_downsampleLen_iff (hf : 0 < f) (hy : y ≠ []) :
    y.length ≤ Arith.real.downsampleLen φ.length start f ↔ posOf start f (y.length - 1) < φ.length := by
  rw [← Arith.lt_real_downsampleLen_iff hf]
  have symbols : 0 < y.length := List.length_pos_iff.mpr hy
  omega

/-- With a trajectory that is long enough, every symbol is turned back by the sample at its position (R175). -/
theorem Arith.real_phcorr_some (hf : 0 < f) (hy : y ≠ []) (reach : posOf start f (y.length - 1) < φ.length) :
    ∃ z, Arith.real.phcorr y φ start f = .ok z ∧ z.length = y.length
      ∧ ∀ n : ℕ, n < y.length →
        realSampleAt z n = realSampleAt y n * cisOf (-(Arith.real.relem φ (posOf start f n).toNat)) := by
  have long := (length_le_downsampleLen_iff hf hy).mpr reach
  have found : Arith.real.phcorr y φ start f = .ok ((List.range y.length).map fun k =>
      Arith.real.cmul (Arith.real.elem y k) (Arith.real.cis (Arith.real.neg
        (Arith.real.relem (Arith.real.downsample Arith.real.zero φ start f) k)))) := by
    rw [Arith.phcorr, Arith.downsample_length, if_neg (not_lt.mpr long)]
  refine ⟨_, found, by simp, fun n hn => ?_⟩
  have taken : posOf start f n < φ.length := (Arith.lt_real_downsampleLen_iff hf).mp (hn.trans_le long)
  rw [realSampleAt_map_range _ hn, Arith.real_cmul, Arith.real_cis, Arith.real_neg,
    Arith.real_relem_downsample hf taken, ← realSampleAt_natCast, cisOf]

/-- A trajectory without the position of the last symbol is too short (R175). -/
theorem Arith.real_phcorr_none (hf : 0 < f) (hy : y ≠ []) (short : φ.length ≤ posOf start f (y.length - 1)) :
    Arith.real.phcorr y φ start f = .error .errArg := by
  have few : Arith.real.downsampleLen φ.length start f < y.length :=
    not_le.mp fun long => short.not_gt ((length_le_downsampleLen_iff hf hy).mp long)
  rw [Arith.phcorr, Arith.downsample_length, if_pos few]

/-- PHCORR within its checks (R174). -/
theorem phcorrRule_of_checks (dest : destinationOk bd [bs, bt] = true) (symbols : s.buf bs ≠ [])
    (trajectory : s.buf bt ≠ []) (hf : 0 < s.arg.factor.toReal) :
    phcorrRule s bd bs bt
      = (numArith.phcorr (s.buf bs) (reals (s.buf bt)) s.arg.start.toNat s.arg.factor).map (s.setBuf bd) := by
  have checks : ((s.buf bs).isEmpty || (reals (s.buf bt)).isEmpty || !numArith.isPos s.arg.factor) = false := by
    simp [symbols, trajectory, hf, reals]
  simp only [phcorrRule, dest, checks]
  cases numArith.phcorr (s.buf bs) (reals (s.buf bt)) s.arg.start.toNat s.arg.factor <;> rfl

/-- Settles O38: `phcorr` over the exact reals, and PHCORR as the same function on the machine's terms. -/
theorem phcorrResult : Obligations.PhcorrResult := by
  intro bd bs bt s dest symbols trajectory f hf
  have rule : ruleOf (.phcorr bd bs bt) s = _ := phcorrRule_of_checks dest symbols trajectory hf
  have reading := numArith_phcorr (s.buf bs) (reals (s.buf bt)) s.arg.start.toNat s.arg.factor
  have hy : valuesOf (s.buf bs) ≠ [] := by simpa [valuesOf] using symbols
  have length : ((reals (s.buf bt)).map NUM.toReal).length = (s.buf bt).length := by simp [reals]
  refine ⟨fun reach => ?_, fun short => ?_⟩
  · obtain ⟨z, found, count, elements⟩ := Arith.real_phcorr_some (φ := (reals (s.buf bt)).map NUM.toReal) hf hy
      (by rwa [length, valuesOf_length])
    obtain ⟨x, hx, rfl⟩ := Except.exists_ok_of_map (reading.trans found)
    rw [hx, Except.mapped_ok] at rule
    simp only [valuesOf_length, realSampleAt_valuesOf, Arith.real_relem_reals] at count elements
    refine ⟨x, exec_of_ruleOf_ok (by simp) rule, count, fun n hn => ?_⟩
    rw [elements n (count ▸ hn), Int.toNat_of_nonneg (posOf_nonneg hf)]
  · have none := Arith.real_phcorr_none (φ := (reals (s.buf bt)).map NUM.toReal) hf hy
      (by rwa [length, valuesOf_length])
    rw [Except.error_of_map (reading.trans none), Except.mapped_error] at rule
    exact exec_of_ruleOf_error (by simp) rule

end Sys2Proof.Machine
end

section
/-! The de-shift and the matched filter over the exact reals (44_filter.md R185 to R191), and the commands FSHIFT and
MFILT. -/

namespace Sys2Proof.Machine

/-! The de-shift (R185). -/

/-- The de-shifted sequence by the formula of R185. -/
theorem Arith.real_fshift (x : List (Cx ℝ)) (f fs : ℝ) {n : ℕ} (hn : n < x.length) :
    realSampleAt (Arith.real.fshift x f fs) n = shiftedBy (realSampleAt x) f fs n := by
  have angle : Arith.real.div (Arith.real.mul (Arith.real.mul (Arith.real.neg Arith.real.twoPi) f)
      (Arith.real.nat n)) fs = -(2 * Real.pi * f * (n : ℤ)) / fs := by
    simp
  rw [Arith.fshift, realSampleAt_map_range _ hn, Arith.real_cmul, ← realSampleAt_natCast, Arith.real_cis, angle,
    shiftedBy, cisOf]

variable {s : State} {bd bs : BufId}

/-- FSHIFT within its checks (R186). -/
theorem fshiftRule_of_checks (dest : destinationOk bd [bs] = true) (source : s.buf bs ≠ [])
    (hfs : 0 < s.arg.rate.toReal) :
    fshiftRule s bd bs = .ok (s.setBuf bd (numArith.fshift (s.buf bs) s.arg.freq s.arg.rate)) := by
  simp [fshiftRule, dest, source, hfs]

/-- Settles O39: `fshift` over the exact reals, and FSHIFT as the same function on the machine's terms. -/
theorem fshiftResult : Obligations.FshiftResult := by
  intro bd bs s dest source hfs
  refine ⟨_, exec_of_ruleOf_ok (by simp) (fshiftRule_of_checks dest source hfs), by simp, fun n hn => ?_⟩
  have inside : n < (valuesOf (s.buf bs)).length := by simpa using hn
  rw [← realSampleAt_valuesOf, numArith_fshift_values, Arith.real_fshift _ _ _ inside, realSampleAt_valuesOf]

/-! The root-raised-cosine taps (R187, R189). -/

theorem Arith.real_filterTaps (sps : ℝ) : Arith.real.filterTaps sps = ⌊10 * sps + 2⌋₊ := by
  rw [Arith.filterTaps, ← Int.floor_toNat]
  simp

/-- The impulse response at 0, at the two special points and elsewhere (R187). -/
theorem Arith.real_rrcAt (β u : ℝ) : Arith.real.rrcAt β u = rrcOf β u := by
  have peak : Arith.real.rrcPeak β = 1 - β + 4 * β / Real.pi := by simp [Arith.rrcPeak]
  have special : Arith.real.rrcSpecial β = β / Real.sqrt 2 * ((1 + 2 / Real.pi) * Real.sin (Real.pi / (4 * β))
      + (1 - 2 / Real.pi) * Real.cos (Real.pi / (4 * β))) := by simp [Arith.rrcSpecial]
  have plain : Arith.real.rrcPlain β u
      = (Real.sin (Real.pi * u * (1 - β)) + 4 * β * u * Real.cos (Real.pi * u * (1 + β)))
        / (Real.pi * u * (1 - (4 * β * u) ^ 2)) := by
    simp [Arith.rrcPlain, sq, add_comm]
  rw [Arith.rrcAt, rrcOf, peak, special, plain]
  simp

/-- The taps of the filter, over the natural indices (R187). -/
theorem Arith.rrc_eq_map {R : Type} (A : Arith R) (T : ℕ) (β Ts fs : R) :
    A.rrc T β Ts fs = (List.range T).map fun n : ℕ =>
      A.rrcAt β (A.div (A.int ((n : ℤ) - centre T)) (A.mul fs Ts)) := by
  rw [Arith.rrc, List.bind_eq_flatMap, List.map_flatMap, List.map_eq_flatMap]
  rfl

/-- A tap of the filter is the impulse response at its distance from the centre tap (R187). -/
theorem realSampleAt_rrc {T k : ℕ} (β Ts fs : ℝ) (h : k < T) :
    realSampleAt (Arith.real.ofReals (Arith.real.rrc T β Ts fs)) k
      = (rrcOf β (((k : ℝ) - ((T - 1) / 2 : ℕ)) / (fs * Ts)) : ℂ) := by
  have offset : (((k : ℤ) - centre T : ℤ) : ℝ) = k - ((T - 1) / 2 : ℕ) := by
    rw [Int.cast_sub, Int.cast_natCast, Int.cast_natCast, centre]
  rw [Arith.ofReals, Arith.rrc_eq_map, List.map_map, realSampleAt_map_range _ h, Function.comp_apply,
    Arith.real_ofReal, Arith.real_rrcAt, Arith.real_int, offset, Arith.real_div, Arith.real_mul]

/-! The matched filter (R191). -/

/-- Scaling a sequence scales its elements. -/
theorem realSampleAt_map_cscale (a : ℝ) (x : List (Cx ℝ)) (n : ℕ) :
    realSampleAt (x.map (Arith.real.cscale a)) n = a * realSampleAt x n := by
  rw [realSampleAt_natCast, realSampleAt_natCast, Arith.elem, Arith.elem, List.getD_eq_getElem?_getD,
    List.getD_eq_getElem?_getD, List.getElem?_map]
  cases x[n]? <;> simp

/-- The filtered sequence by the formula of R191. -/
theorem Arith.real_mfilt (x : List (Cx ℝ)) (sps β Rs fs : ℝ) {n : ℕ} (hn : n < x.length) :
    realSampleAt (Arith.real.mfilt x sps β Rs fs) n = filteredBy sps β Rs fs (realSampleAt x) n := by
  have gain : Arith.real.div Arith.real.one (Arith.real.sqrt sps) = 1 / Real.sqrt sps := by simp
  have period : Arith.real.div Arith.real.one Rs = 1 / Rs := by simp
  rw [Arith.mfilt, realSampleAt_map_cscale, Arith.real_convSame x _ hn, Arith.ofReals_length, Arith.rrc_length, gain,
    period, Arith.real_filterTaps, filteredBy]
  exact congrArg _ (Finset.sum_congr rfl fun k hk => by rw [realSampleAt_rrc _ _ _ (Finset.mem_range.mp hk), centre])

theorem Arith.real_rollOffOk (β : ℝ) : Arith.real.rollOffOk β = true ↔ 0 ≤ β ∧ β ≤ 1 := by
  simp [Arith.rollOffOk]

/-- The operands that MFILT accepts (R190). -/
structure FilterOk (sps fs β Rs : ℝ) : Prop where
  factor : 0 < sps
  rate : 0 < fs
  rollOff : 0 ≤ β ∧ β ≤ 1
  symbolRate : 0 < Rs

/-- With operands in their ranges, MFILT asks only for a source that is as long as the filter (R190). -/
theorem mfiltRule_of_checks (dest : destinationOk bd [bs] = true)
    (ok : FilterOk s.arg.factor.toReal s.arg.rate.toReal s.cfg.rollOff.toReal s.cfg.symbolRate.toReal) :
    mfiltRule s bd bs = if (s.buf bs).length < ⌊10 * s.arg.factor.toReal + 2⌋₊ then .error .errArg
      else .ok (s.setBuf bd (numArith.mfilt (s.buf bs) s.arg.factor s.cfg.rollOff s.cfg.symbolRate s.arg.rate)) := by
  have rollOff := (Arith.real_rollOffOk _).mpr ok.rollOff
  have taps : numArith.filterTaps s.arg.factor = ⌊10 * s.arg.factor.toReal + 2⌋₊ := by
    rw [numArith_filterTaps, Arith.real_filterTaps]
  simp [mfiltRule, dest, ok.factor, ok.rate, ok.symbolRate, rollOff, taps]

/-- Settles O40: `mfilt` over the exact reals, and MFILT as the same function on the machine's terms. -/
theorem mfiltResult : Obligations.MfiltResult := by
  intro bd bs s dest sps fs β Rs hsps hfs hβ hβ' hRs
  have rule : ruleOf (.mfilt bd bs) s = _ := mfiltRule_of_checks dest ⟨hsps, hfs, ⟨hβ, hβ'⟩, hRs⟩
  refine ⟨fun long => ?_, fun short => ?_⟩
  · rw [if_neg long.not_gt] at rule
    refine ⟨_, exec_of_ruleOf_ok (by simp) rule, by simp, fun n hn => ?_⟩
    have inside : n < (valuesOf (s.buf bs)).length := by simpa using hn
    rw [← realSampleAt_valuesOf, numArith_mfilt_values, Arith.real_mfilt _ _ _ _ _ inside, realSampleAt_valuesOf]
  · rw [if_pos short] at rule
    exact exec_of_ruleOf_error (by simp) rule

end Sys2Proof.Machine
end

section
/-! SPECIAL as the chain of the primitive commands FSHIFT, MFILT and DOWNSAMPLE (44_filter.md R192, 46_special_dsp.md
R240). -/

namespace Sys2Proof.Machine

variable {s t : State} {i : Instr} {bd bs src dst : BufId}

/-- A command that completes has raised an error and failed, or has written its destinations and succeeded
(20_memory.md R67). -/
theorem exec_fail_or_succeed (hi : i ≠ .sreset) (h : exec i s = .next t) :
    (∃ e, t = s.fail e) ∨ ∃ u, ruleOf i s = .ok u ∧ t = u.succeed := by
  rw [exec_eq_complete i s hi] at h
  cases h
  exact (s.complete_cases (ruleOf i s)).imp_left fun ⟨e, _, failed⟩ => ⟨e, failed⟩

/-- A failure leaves a code that is not 0 (60_exceptions.md R280). -/
theorem ruleOf_ok_of_errCode (hi : i ≠ .sreset) (h : exec i s = .next t) (code : t.errCode = 0#32) :
    ∃ u, ruleOf i s = .ok u ∧ t = u.succeed := by
  refine (exec_fail_or_succeed hi h).resolve_left ?_
  rintro ⟨e, rfl⟩
  exact e.code_ne_zero code

/-- A failure leaves DONE as the launch left it (R284). -/
theorem ruleOf_ok_of_done (hi : i ≠ .sreset) (h : exec i s = .next t) (launched : s.status.done = false)
    (done : t.status.done = true) : ∃ u, ruleOf i s = .ok u ∧ t = u.succeed := by
  refine (exec_fail_or_succeed hi h).resolve_left ?_
  rintro ⟨e, rfl⟩
  exact Bool.false_ne_true (launched.symm.trans done)

/-- What an FSHIFT within its checks leaves (44_filter.md R186). -/
theorem exec_fshift_of_checks (dest : destinationOk bd [bs] = true) (source : s.buf bs ≠ [])
    (hfs : 0 < s.arg.rate.toReal) (h : exec (.fshift bd bs) s = .next t) :
    t = (s.setBuf bd (numArith.fshift (s.buf bs) s.arg.freq s.arg.rate)).succeed := by
  have completed := exec_of_ruleOf_ok (i := .fshift bd bs) (by simp) (fshiftRule_of_checks dest source hfs)
  exact Host.Outcome.next.inj (h.symm.trans completed)

/-- What an MFILT with ERRCODE 0 leaves (R190). -/
theorem exec_mfilt_of_errCode (h : exec (.mfilt bd bs) s = .next t) (code : t.errCode = 0#32) :
    t = (s.setBuf bd
      (numArith.mfilt (s.buf bs) s.arg.factor s.cfg.rollOff s.cfg.symbolRate s.arg.rate)).succeed := by
  obtain ⟨u, (rule : mfiltRule s bd bs = .ok u), rfl⟩ := ruleOf_ok_of_errCode (by simp) h code
  obtain ⟨-, -, -, -, -, -, rfl⟩ := mfiltRule_ok rule
  rfl

/-- What a DOWNSAMPLE with ERRCODE 0 leaves (40_resampler.md R101). -/
theorem exec_downsample_of_errCode (h : exec (.downsample bd bs) s = .next t) (code : t.errCode = 0#32) :
    t = (s.setBuf bd
      (numArith.downsample numArith.czero (s.buf bs) s.arg.start.toNat s.arg.factor)).succeed := by
  obtain ⟨u, (rule : downsampleRule s bd bs = .ok u), rfl⟩ := ruleOf_ok_of_errCode (by simp) h code
  obtain ⟨-, -, -, -, rfl⟩ := downsampleRule_ok rule
  rfl

/-- A calibration capture of SPECIAL and its output buffer (46_special_dsp.md R240). -/
def IsCalibrationPair (src dst : BufId) : Prop :=
  (src = BufId.calE ∧ dst = BufId.spoE) ∨ (src = BufId.calES ∧ dst = BufId.spoES)

/-- A SPECIAL that succeeds gives each output the calibration of its capture (R240). -/
theorem specialRule_ok_buf (pair : IsCalibrationPair src dst) {u : State} (h : specialRule s = .ok u) :
    s.buf src ≠ [] ∧ numArith.isPos s.snap.equiRate = true
    ∧ u.buf dst = numArith.calibrate s.snap (s.buf src) := by
  obtain ⟨-, -, rate, -, hE, hES, -, -, rfl⟩ := specialRule_ok h
  obtain ⟨rfl, rfl⟩ | ⟨rfl, rfl⟩ := pair
  · refine ⟨hE, rate, ?_⟩
    rw [State.setBuf_buf_ne _ _ _ _ (by decide), State.setBuf_buf_self]
  · exact ⟨hES, rate, State.setBuf_buf_self _ _ _⟩

/-- A capture of SPECIAL is no work buffer, so W0 is a destination beside it (30_encoding.md R85). -/
theorem IsCalibrationPair.w0_admitted (pair : IsCalibrationPair src dst) : destinationOk BufId.w0 [src] = true := by
  obtain ⟨rfl, -⟩ | ⟨rfl, -⟩ := pair <;> decide

/-- Settles O50: each primitive command of the chain writes the next of the three functions that `calibrate` composes,
and keeps the arguments and the configuration for the commands after it. -/
theorem specialIsTheChain : Obligations.SpecialIsTheChain := by
  intro s t t1 t2 t3 src dst (pair : IsCalibrationPair src dst) special launched done freq rate start factor
    rollOff symbolRate shift filter filtered sample sampled
  obtain ⟨u, ruleS, rfl⟩ := ruleOf_ok_of_done (by simp) special launched done
  obtain ⟨source, positive, result⟩ := specialRule_ok_buf pair ruleS
  have hfs : 0 < s.arg.rate.toReal := by rwa [rate, ← Arith.real_isPos, ← numArith_isPos]
  have afterShift := exec_fshift_of_checks pair.w0_admitted source hfs shift
  have afterFilter := exec_mfilt_of_errCode filter filtered
  have afterSample := exec_downsample_of_errCode sample sampled
  calc t3.buf BufId.w2
    _ = numArith.downsample numArith.czero (t2.buf BufId.w1) t2.arg.start.toNat t2.arg.factor := by
      simp [afterSample]
    _ = numArith.downsample numArith.czero
          (numArith.mfilt (t1.buf BufId.w0) t1.arg.factor t1.cfg.rollOff t1.cfg.symbolRate t1.arg.rate)
          t1.arg.start.toNat t1.arg.factor := by
      simp [afterFilter]
    _ = numArith.downsample numArith.czero
          (numArith.mfilt (numArith.fshift (s.buf src) s.arg.freq s.arg.rate) s.arg.factor s.cfg.rollOff
            s.cfg.symbolRate s.arg.rate)
          s.arg.start.toNat s.arg.factor := by
      simp [afterShift]
    _ = numArith.calibrate s.snap (s.buf src) := by
      simp [Arith.calibrate, freq, rate, start, factor, rollOff, symbolRate]
    _ = u.succeed.buf dst := result.symm

end Sys2Proof.Machine
end

section
/-! The subframe plan of RUN (45_pipeline.md R211, R212). -/

namespace Sys2Proof.Machine

variable {R : Type} {cfg : CfgBank R}

/-- What the entry checks ask of the plan (R205 item 1): symbols, and subframes of at least one of them. -/
structure PlanOk (cfg : CfgBank R) : Prop where
  symbols : 1 ≤ cfg.numSymbols.toNat
  subframe : cfg.processSubframes = true → 1 ≤ cfg.subframeLength.toNat

theorem PlanOk.subframeSymbols_pos (h : PlanOk cfg) : 0 < subframeSymbols cfg := by
  unfold subframeSymbols
  split
  next on => exact h.subframe on
  next off => exact h.symbols

theorem subframeSymbols_off (h : cfg.processSubframes = false) : subframeSymbols cfg = cfg.numSymbols.toNat := by
  simp [subframeSymbols, h]

/-- `k` subframes are enough when they have room for all symbols (R211). -/
theorem subframeCount_le_iff (h : PlanOk cfg) {k : ℕ} :
    subframeCount cfg ≤ k ↔ cfg.numSymbols.toNat ≤ k * subframeSymbols cfg := by
  have positive := h.subframeSymbols_pos
  rw [subframeCount, Nat.div_le_iff_le_mul_add_pred positive, mul_comm]
  omega

/-- Subframe `j` exists when symbols are left for it (R211). -/
theorem lt_subframeCount_iff (h : PlanOk cfg) {j : ℕ} :
    j < subframeCount cfg ↔ j * subframeSymbols cfg < cfg.numSymbols.toNat := by
  rw [← not_le, subframeCount_le_iff h, not_le]

/-- The number of subframes is the quotient of the symbols, rounded up (R211). -/
theorem subframeCount_eq_ceil (h : PlanOk cfg) :
    subframeCount cfg = ⌈(cfg.numSymbols.toNat : ℚ) / subframeSymbols cfg⌉₊ := by
  have positive : (0 : ℚ) < subframeSymbols cfg := by exact_mod_cast h.subframeSymbols_pos
  refine eq_of_forall_ge_iff fun k => ?_
  rw [subframeCount_le_iff h, Nat.ceil_le, div_le_iff₀ positive]
  exact_mod_cast Iff.rfl

/-- Without subframing there is one subframe (R212). -/
theorem subframeCount_off (h : PlanOk cfg) (off : cfg.processSubframes = false) : subframeCount cfg = 1 := by
  have enough : subframeCount cfg ≤ 1 := by simp [subframeCount_le_iff h, subframeSymbols_off off]
  have needed : 0 < subframeCount cfg := by
    rw [lt_subframeCount_iff h, zero_mul]
    exact h.symbols
  omega

/-- A subframe that exists is allotted at least one symbol (R211). -/
theorem allotted_pos (h : PlanOk cfg) {j : ℕ} (hj : j < subframeCount cfg) : 1 ≤ allotted cfg j := by
  have left := (lt_subframeCount_iff h).mp hj
  have positive := h.subframeSymbols_pos
  unfold allotted
  omega

/-- The first `k` subframes are allotted the symbols they have room for (R211). -/
theorem sum_allotted (cfg : CfgBank R) (k : ℕ) :
    ∑ j ∈ Finset.range k, allotted cfg j = min cfg.numSymbols.toNat (k * subframeSymbols cfg) := by
  induction k with
  | zero => simp
  | succ k ih =>
    rw [Finset.sum_range_succ, ih, allotted, Nat.succ_mul]
    omega

/-- Settles O46: the counting facts of the plan, and the loop's one entry per subframe. -/
theorem subframePlan : Obligations.SubframePlan := by
  refine ⟨?_, fun R A cfg zones cap o ran => (A.run_frames ran).1⟩
  intro R cfg symbols subframe n Lsf
  have plan : PlanOk cfg := ⟨symbols, subframe⟩
  refine ⟨?_, fun j hj => ⟨rfl, allotted_pos plan hj⟩, ?_, fun off => ⟨subframeCount_off plan off, ?_⟩⟩
  · rw [subframeCount_eq_ceil plan, Int.natCast_ceil_eq_ceil (by positivity)]
    rfl
  · rw [sum_allotted, min_eq_left ((subframeCount_le_iff plan).mp le_rfl)]
  · simp [allotted, subframeSymbols_off off, n]

end Sys2Proof.Machine
end

section
/-! The entry checks of RUN (45_pipeline.md R203 to R205, R211) and of SPECIAL (46_special_dsp.md R240, R242) over the
exact reals, in the order of 60_exceptions.md R283. -/

namespace Sys2Proof.Machine

/-! The checks of RUN one by one. -/

variable {cfg : CfgBank ℝ} {N q : ℕ}

/-- `check_pilots` by its condition (R204). -/
theorem checkPilots_spec (cfg : CfgBank ℝ) :
    let outcome := checkPilots (variantOf cfg.clockShared cfg.loShared) cfg.numPilots.toNat
    (PilotsOk cfg → outcome = .ok ()) ∧ (¬ PilotsOk cfg → outcome = .error .errPilots) := by
  unfold PilotsOk
  cases cfg.clockShared <;> cases cfg.loShared <;>
    simp [variantOf, checkPilots, BitVec.toNat_eq, Nat.one_le_iff_ne_zero]

/-- A word is at least 1 when it is not the word 0. -/
theorem one_le_toNat_iff (w : Word) : 1 ≤ w.toNat ↔ w ≠ 0#32 := by
  rw [Nat.one_le_iff_ne_zero, BitVec.toNat_ne, BitVec.toNat_zero]

/-- The first group of `check_operands` (R205 item 1). -/
theorem Arith.real_operandsOk :
    Arith.real.operandsOk (variantOf cfg.clockShared cfg.loShared) cfg N = true ↔ OperandsOk cfg N := by
  unfold OperandsOk
  cases cfg.clockShared <;> cases cfg.loShared <;>
    simp [variantOf, Arith.operandsOk, one_le_toNat_iff, Arith.real_rollOffOk, and_assoc, imp_iff_not_or]

theorem OperandsOk.planOk (h : OperandsOk cfg N) : PlanOk cfg := by
  obtain ⟨-, -, -, -, symbols, -, -, -, -, -, -, subframe, -⟩ := h
  exact ⟨(one_le_toNat_iff _).mpr symbols, fun on => (one_le_toNat_iff _).mpr (subframe on)⟩

/-- The number of subframes by its formula (R211, R212). -/
theorem planCount_eq (h : PlanOk cfg) : planCount cfg = subframeCount cfg := by
  unfold planCount
  split
  next on => rw [subframeCount_eq_ceil h, subframeSymbols, if_pos on]
  next off => rw [subframeCount_off h (by simpa using off)]

/-- The ratio is an integer of at least 1 when it is its own integer part and not below 1 (R205 item 2). -/
theorem isRepeatFactor_floor (whole : (⌊cfg.adcRate / cfg.sequenceRate⌋ : ℝ) = cfg.adcRate / cfg.sequenceRate)
    (least : 1 ≤ cfg.adcRate / cfg.sequenceRate) :
    IsRepeatFactor cfg ⌊cfg.adcRate / cfg.sequenceRate⌋.toNat := by
  have positive : (1 : ℤ) ≤ ⌊cfg.adcRate / cfg.sequenceRate⌋ := Int.le_floor.mpr (by simpa using least)
  refine ⟨by omega, ?_⟩
  rw [← Int.cast_natCast, Int.toNat_of_nonneg (by omega), whole]

/-- `check_operands` in its order (R205): operands out of their ranges. -/
theorem Arith.real_checkOperands_argument (h : ¬ OperandsOk cfg N) :
    Arith.real.checkOperands (variantOf cfg.clockShared cfg.loShared) cfg N = .error .errArg := by
  rw [← Arith.real_operandsOk, Bool.not_eq_true] at h
  simp [Arith.checkOperands, h]

/-- A ratio that is no integer of at least 1 (R205 item 2). -/
theorem Arith.real_checkOperands_factor (h : OperandsOk cfg N) (none : ¬ ∃ q, IsRepeatFactor cfg q) :
    Arith.real.checkOperands (variantOf cfg.clockShared cfg.loShared) cfg N = .error .errSeqFactor := by
  let r := cfg.adcRate / cfg.sequenceRate
  have check : (!Arith.real.eq (Arith.real.int ⌊r⌋) r || Arith.real.lt r Arith.real.one) = true := by
    by_contra passes
    obtain ⟨whole, least⟩ : (⌊r⌋ : ℝ) = r ∧ 1 ≤ r := by simpa using passes
    exact none ⟨_, isRepeatFactor_floor whole least⟩
  simp only [Arith.checkOperands, Arith.real_operandsOk.mpr h]
  exact if_pos check

/-- The last two checks of `check_operands`, on the length of the capture and the number of subframes (R205 items 3 and
4, R211). -/
theorem Arith.real_checkOperands_sizes (h : OperandsOk cfg N) (hq : IsRepeatFactor cfg q) :
    Arith.real.checkOperands (variantOf cfg.clockShared cfg.loShared) cfg N =
      if N < cfg.sequenceLength.toNat * q then .error .errArg
      else if Config.maxSf < planCount cfg then .error .errRange
      else .ok q := by
  obtain ⟨least, ratio⟩ := hq
  simp only [Arith.checkOperands, Arith.real_operandsOk.mpr h, planCount_eq h.planOk, Arith.real_div, ratio]
  simp [Nat.cast_lt_one, Nat.one_le_iff_ne_zero.mp least]

/-! The checks of RUN in a row. -/

/-- `check_schema`, `check_pilots` and `check_operands`, with the repeat factor (R203 to R205). -/
def Arith.entry {R : Type} (A : Arith R) (cfg : CfgBank R) (N : ℕ) : Except ErrCode ℕ :=
  checkSchema cfg.detectionSchema >>= fun _ =>
  checkPilots (variantOf cfg.clockShared cfg.loShared) cfg.numPilots.toNat >>= fun _ =>
  A.checkOperands (variantOf cfg.clockShared cfg.loShared) cfg N

/-- RUN after its synchronisation (R210 to R219). -/
def Arith.fromSync {R : Type} (A : Arith R) (cfg : CfgBank R) (zones : List (R × R)) (N : ℕ) (clock : Stage1 R × Bool)
    (sy : Synced R) : Except ErrCode (RunOut R) :=
  A.subframes (A.planOf cfg zones N clock.1 sy) (subframeCount cfg) 0 sy.e >>= fun frames =>
  (A.outputOf cfg N clock sy frames).checkLengths

/-- RUN after its clock abort (R208 to R219). -/
def Arith.fromClock {R : Type} (A : Arith R) (cfg : CfgBank R) (zones : List (R × R)) (cap : List (Cx R)) (q : ℕ)
    (clock : Stage1 R × Bool) : Except ErrCode (RunOut R) :=
  A.stage2 (variantOf cfg.clockShared cfg.loShared) cfg zones cap q clock.1 >>= A.fromSync cfg zones cap.length clock

/-- RUN after its entry checks (R206 to R219). -/
def Arith.fromEntry {R : Type} (A : Arith R) (cfg : CfgBank R) (zones : List (R × R)) (cap : List (Cx R)) (q : ℕ) :
    Except ErrCode (RunOut R) :=
  A.stage1 (variantOf cfg.clockShared cfg.loShared) cfg zones cap >>= fun est =>
  A.clockAbort (variantOf cfg.clockShared cfg.loShared) cfg est >>= A.fromClock cfg zones cap q

/-- RUN is its entry checks and then its stages, in the cuts above (R200). -/
theorem Arith.run_eq_entry_bind {R : Type} (A : Arith R) (cfg : CfgBank R) (zones : List (R × R)) (cap : List (Cx R)) :
    A.run cfg zones cap = A.entry cfg cap.length >>= A.fromEntry cfg zones cap := by
  simp only [Arith.run_eq_bind, Arith.entry, bind_assoc]
  rfl

theorem Arith.real_entry_schema (h : cfg.detectionSchema ≠ 0#32) :
    Arith.real.entry cfg N = .error .errSchema := by
  have check : checkSchema cfg.detectionSchema = .error .errSchema := by simp [checkSchema, h]
  rw [Arith.entry, check]
  rfl

theorem Arith.real_entry_pilots (schema : cfg.detectionSchema = 0#32) (h : ¬ PilotsOk cfg) :
    Arith.real.entry cfg N = .error .errPilots := by
  rw [Arith.entry, schema, (checkPilots_spec cfg).2 h]
  rfl

theorem Arith.real_entry_operands (schema : cfg.detectionSchema = 0#32) (pilots : PilotsOk cfg) :
    Arith.real.entry cfg N
      = Arith.real.checkOperands (variantOf cfg.clockShared cfg.loShared) cfg N := by
  rw [Arith.entry, schema, (checkPilots_spec cfg).1 pilots]
  rfl

/-- Every entry check passes (R203 to R205). -/
theorem EntryOk.entry (h : EntryOk cfg N q) : Arith.real.entry cfg N = .ok q := by
  obtain ⟨schema, pilots, operands, factor, long, few⟩ := h
  rw [Arith.real_entry_operands schema pilots, Arith.real_checkOperands_sizes operands factor, if_neg long.not_gt,
    if_neg few.not_gt]

/-- What has passed every entry check satisfies their conditions. -/
theorem entryOk_of_entry (h : Arith.real.entry cfg N = .ok q) : EntryOk cfg N q := by
  have schema : cfg.detectionSchema = 0#32 := by
    by_contra no
    cases (Arith.real_entry_schema no).symm.trans h
  have pilots : PilotsOk cfg := by
    by_contra no
    cases (Arith.real_entry_pilots schema no).symm.trans h
  rw [Arith.real_entry_operands schema pilots] at h
  have operands : OperandsOk cfg N := by
    by_contra no
    cases (Arith.real_checkOperands_argument no).symm.trans h
  obtain ⟨q', factor⟩ : ∃ q', IsRepeatFactor cfg q' := by
    by_contra no
    cases (Arith.real_checkOperands_factor operands no).symm.trans h
  rw [Arith.real_checkOperands_sizes operands factor] at h
  split at h
  · cases h
  next long =>
    split at h
    · cases h
    next few =>
      cases h
      exact ⟨schema, pilots, operands, factor, not_lt.mp long, not_lt.mp few⟩

/-- After its entry checks, RUN is its stages. -/
theorem EntryOk.run_eq {zones : List (ℝ × ℝ)} {cap : List (Cx ℝ)} (h : EntryOk cfg cap.length q) :
    Arith.real.run cfg zones cap = Arith.real.fromEntry cfg zones cap q := by
  rw [Arith.run_eq_entry_bind, h.entry]
  rfl

/-! The commands. -/

variable {s : State}

/-- An error of RUN over the exact reals is the error of the command (R13, R227). -/
theorem exec_run_of_real_error {e : ErrCode}
    (h : Arith.real.run s.cfg.toReal (zoneValues s.zones) (valuesOf (s.buf BufId.cap)) = .error e) :
    exec .run s = .next (s.failedWith e) := by
  have ran := Except.error_of_map ((numArith_run s.cfg s.zones (s.buf BufId.cap)).trans h)
  exact exec_of_ruleOf_error (by simp) (by simp [ruleOf, runRule, ran])

theorem exec_run_of_entry_error {e : ErrCode}
    (h : Arith.real.entry s.cfg.toReal (s.buf BufId.cap).length = .error e) :
    exec .run s = .next (s.failedWith e) := by
  refine exec_run_of_real_error ?_
  rw [Arith.run_eq_entry_bind, valuesOf_length, h]
  rfl

/-- An error of SPECIAL over the exact reals is the error of the command (R13). -/
theorem exec_special_of_real_error {e : ErrCode}
    (h : Arith.real.special s.snap.toReal (valuesOf (s.buf BufId.calE)) (valuesOf (s.buf BufId.calES)) = .error e) :
    exec .special s = .next (s.failedWith e) := by
  have ran := Except.error_of_map ((numArith_special s.snap (s.buf BufId.calE) (s.buf BufId.calES)).trans h)
  exact exec_of_ruleOf_error (by simp) (by simp [ruleOf, specialRule, ran])

/-- The ranges of the snapshot values (46_special_dsp.md R240). -/
def SnapshotOk (b : SnapBank ℝ) : Prop := 0 < b.symbolRate ∧ 0 < b.equiRate ∧ 0 ≤ b.rollOff ∧ b.rollOff ≤ 1

theorem snapshotOk_iff (b : SnapBank ℝ) :
    (!Arith.real.isPos b.symbolRate || !Arith.real.isPos b.equiRate || !Arith.real.rollOffOk b.rollOff) = false
      ↔ SnapshotOk b := by
  simp [SnapshotOk, Arith.real_rollOffOk, and_assoc]

/-- SPECIAL's check of the snapshot values (R240). -/
theorem Arith.real_special_values {b : SnapBank ℝ} (schema : b.schema = 0#32) (h : ¬ SnapshotOk b)
    (x y : List (Cx ℝ)) : Arith.real.special b x y = .error .errArg := by
  rw [← snapshotOk_iff, Bool.not_eq_false] at h
  simp only [Arith.special, schema, h]
  rfl

/-- SPECIAL's checks of the captures (R240). -/
theorem Arith.real_special_captures {b : SnapBank ℝ} (schema : b.schema = 0#32) (h : SnapshotOk b)
    (x y : List (Cx ℝ)) :
    Arith.real.special b x y =
      if x.isEmpty || y.isEmpty then .error .errArg
      else if Config.bufMax < Arith.real.calibrateLen b x.length ∨ Config.bufMax < Arith.real.calibrateLen b y.length
        then .error .errRange
      else .ok (Arith.real.calibrate b x, Arith.real.calibrate b y) := by
  have values := (snapshotOk_iff b).mpr h
  simp only [Arith.special, schema, values, Bool.or_eq_true, decide_eq_true_eq]
  rfl

/-- The calibrated capture is longer than a buffer when the sample at position BUF_MAX exists (R102, R240). -/
theorem SnapshotOk.lt_calibrateLen_iff {b : SnapBank ℝ} (h : SnapshotOk b) {n : ℕ} :
    Config.bufMax < Arith.real.calibrateLen b n ↔ posOf 0 (b.equiRate / b.symbolRate) Config.bufMax < n := by
  obtain ⟨symbolRate, equiRate, -⟩ := h
  exact Arith.lt_real_downsampleLen_iff (div_pos equiRate symbolRate)

/-- Settles O19: the checks over the exact reals, in their order. -/
theorem entryErrors : Obligations.EntryErrors := by
  constructor
  · intro s fails cfg N
    refine ⟨fun schema => exec_run_of_entry_error (Arith.real_entry_schema schema), fun schema => ?_⟩
    have operands (pilots : PilotsOk cfg) {e : ErrCode}
        (h : Arith.real.checkOperands (variantOf cfg.clockShared cfg.loShared) cfg N = .error e) : fails e :=
      exec_run_of_entry_error ((Arith.real_entry_operands schema pilots).trans h)
    refine ⟨fun no => exec_run_of_entry_error (Arith.real_entry_pilots schema no),
      fun pilots no => operands pilots (Arith.real_checkOperands_argument no),
      fun pilots ok none => operands pilots (Arith.real_checkOperands_factor ok none), fun q pilots ok factor => ?_⟩
    have sizes := Arith.real_checkOperands_sizes ok factor
    refine ⟨fun short => operands pilots (sizes.trans (if_pos short)), fun long many => operands pilots ?_⟩
    exact sizes.trans ((if_neg long.not_gt).trans (if_pos many))
  · intro s fails b valuesOk tooLong
    refine ⟨fun schema => exec_special_of_real_error ?_,
      fun schema no => exec_special_of_real_error (Arith.real_special_values schema no _ _),
      fun schema values empty => exec_special_of_real_error ?_,
      fun schema values some someES long => exec_special_of_real_error ?_⟩
    · have other : b.schema ≠ 0#32 := schema
      simp [Arith.special, b, other]
    · rw [Arith.real_special_captures schema values, if_pos (by simpa using empty)]
    · have ok : SnapshotOk b := values
      rw [Arith.real_special_captures schema values, if_neg (by simp [some, someES]), if_pos ?_]
      rw [ok.lt_calibrateLen_iff, ok.lt_calibrateLen_iff, valuesOf_length, valuesOf_length]
      exact long

end Sys2Proof.Machine
end

section
/-! The clock abort of RUN over the exact reals (45_pipeline.md R207). -/

namespace Sys2Proof.Machine

variable {v : Variant} {cfg : CfgBank ℝ} {st : Stage1 ℝ}

/-- The clock is estimated in the variants US and UU only (R202). -/
theorem Variant.aPriori_eq_false (v : Variant) : v.aPriori = false ↔ v = .us ∨ v = .uu := by
  cases v <;> simp [Variant.aPriori]

theorem Arith.real_clockAborts (v : Variant) (cfg : CfgBank ℝ) (equi : ℝ) :
    Arith.real.clockAborts v cfg equi = true
      ↔ (v = .us ∨ v = .uu) ∧ 0 < cfg.abortClockThreshold ∧ cfg.abortClockThreshold < |equi - cfg.adcRate| := by
  simp [Arith.clockAborts, Variant.aPriori_eq_false, and_assoc]

/-! What the clock abort leaves. -/

section used

variable {R : Type} (A : Arith R) {v : Variant} {cfg : CfgBank R} {st : Stage1 R}

theorem Arith.usedClock_of_aborts (h : A.clockAborts v cfg st.equi = true) :
    A.usedClock v cfg st = A.nominal v cfg st := if_pos h

theorem Arith.usedClock_of_keeps (h : A.clockAborts v cfg st.equi = false) : A.usedClock v cfg st = st := by
  rw [Arith.usedClock, h]
  rfl

/-- The observed pilots are kept. -/
theorem Arith.usedClock_obs (v : Variant) (cfg : CfgBank R) (st : Stage1 R) :
    (A.usedClock v cfg st).obs0 = st.obs0 ∧ (A.usedClock v cfg st).obs1 = st.obs1 := by
  unfold Arith.usedClock
  split <;> exact ⟨rfl, rfl⟩

/-- The beat of the fallback in variant UU is that of the pilot that was observed. -/
theorem Arith.nominal_fBeat_uu {f1 : R} (h : st.obs0 = some f1) :
    (A.nominal .uu cfg st).fBeat = A.sub f1 cfg.pilotFreq0 := by
  simp [Arith.nominal, h]

/-- In the other variants the fallback keeps the beat. -/
theorem Arith.nominal_fBeat_of_ne_uu (h : v ≠ .uu) : (A.nominal v cfg st).fBeat = st.fBeat := by
  cases v with
  | uu => exact absurd rfl h
  | _ => rfl

end used

/-- The two checks behind the clock abort, on the rate that it leaves (R207). -/
theorem Arith.real_clockAbort (v : Variant) (cfg : CfgBank ℝ) (st : Stage1 ℝ) :
    let used := Arith.real.usedClock v cfg st
    Arith.real.clockAbort v cfg st =
      if used.equi ≤ 0 then .error .errNumeric
      else if used.equi / 2 ≤ cfg.toneCutoff then .error .errArg
      else .ok (used, Arith.real.clockAborts v cfg st.equi) := by
  simp only [Arith.clockAbort_eq_checks, Bool.not_eq_true', Arith.real_isPos_false, Arith.real_lt_false,
    Arith.real_div, Arith.real_rat, Rat.cast_ofNat]

/-- Settles O47: the rate that the checks see is the nominal one exactly when the clock abort applies. -/
theorem clockAbortRule : Obligations.ClockAbortRule := by
  intro v cfg st thr aborts equi
  have applies : Arith.real.clockAborts v cfg st.equi = true ↔ aborts := Arith.real_clockAborts v cfg st.equi
  have keeps (no : ¬ aborts) : Arith.real.usedClock v cfg st = st :=
    Arith.real.usedClock_of_keeps (Bool.eq_false_iff.mpr (mt applies.mp no))
  have falls (yes : aborts) : Arith.real.usedClock v cfg st = Arith.real.nominal v cfg st :=
    Arith.real.usedClock_of_aborts (applies.mpr yes)
  have rate : (Arith.real.usedClock v cfg st).equi = equi := by
    by_cases yes : aborts
    · rw [falls yes]
      exact (if_pos yes).symm
    · rw [keeps yes]
      exact (if_neg yes).symm
  have checks := Arith.real_clockAbort v cfg st
  dsimp only at checks
  rw [rate] at checks
  obtain ⟨obs0, obs1⟩ := Arith.real.usedClock_obs v cfg st
  refine ⟨fun low => checks.trans (if_pos low),
    fun positive low => checks.trans ((if_neg positive.not_ge).trans (if_pos low)), fun positive below => ?_⟩
  refine ⟨_, _, checks.trans ((if_neg positive.not_ge).trans (if_neg below.not_ge)), applies, rate, obs0, obs1,
    fun f1 yes hv seen => ?_, fun h => ?_⟩
  · rw [falls yes, hv]
    exact Arith.real.nominal_fBeat_uu seen
  · by_cases yes : aborts
    · have other : v ≠ .uu := by
        rintro rfl
        exact absurd (h.resolve_left (not_not.mpr yes)) (by simp)
      rw [falls yes, Arith.real.nominal_fBeat_of_ne_uu other]
    · rw [keeps yes]

/-! The same by the formulas of the statements on RUN. -/

/-- The clock is estimated when it is not shared (R202). -/
theorem variantOf_aPriori (c l : Bool) : (variantOf c l).aPriori = c := by
  cases c <;> cases l <;> rfl

theorem variantOf_eq_uu_iff (c l : Bool) : variantOf c l = .uu ↔ c = false ∧ l = false := by
  cases c <;> cases l <;> simp [variantOf]

theorem clockAborts_iff {equi : ℝ} :
    Arith.real.clockAborts (variantOf cfg.clockShared cfg.loShared) cfg equi = true ↔ ClockAborts cfg equi := by
  rw [Arith.real_clockAborts, ← Variant.aPriori_eq_false, variantOf_aPriori, ClockAborts]

variable {equi0 beat0 equi beat : ℝ} {obs0 obs1 : Option ℝ}

/-- The rate and beat of the formula are those that the clock abort leaves (R207). -/
theorem IsRate.usedClock (h : IsRate cfg equi0 beat0 obs0 equi beat) :
    Arith.real.usedClock (variantOf cfg.clockShared cfg.loShared) cfg ⟨equi0, beat0, obs0, obs1⟩
      = ⟨equi, beat, obs0, obs1⟩ := by
  obtain ⟨keeps, falls⟩ := h
  by_cases yes : ClockAborts cfg equi0
  · rw [Arith.real.usedClock_of_aborts (clockAborts_iff.mpr yes)]
    obtain ⟨rfl, shared, unshared⟩ := falls yes
    obtain ⟨clock, -⟩ := yes
    cases lo : cfg.loShared with
    | true => simp [Arith.nominal, variantOf, clock, shared lo]
    | false =>
      obtain ⟨f1, rfl, rfl⟩ := unshared lo
      simp [Arith.nominal, variantOf, clock]
  · obtain ⟨rfl, rfl⟩ := keeps yes
    exact Arith.real.usedClock_of_keeps (Bool.eq_false_iff.mpr (mt clockAborts_iff.mp yes))

/-- With a pilot observed in variant UU there are a rate and a beat by the formula (R206, R207). -/
theorem exists_isRate (seen : cfg.clockShared = false → cfg.loShared = false → ∃ f1, obs0 = some f1)
    (equi0 beat0 : ℝ) : ∃ equi beat, IsRate cfg equi0 beat0 obs0 equi beat := by
  by_cases yes : ClockAborts cfg equi0
  · cases lo : cfg.loShared with
    | true => exact ⟨_, beat0, fun no => absurd yes no, fun _ => ⟨rfl, fun _ => rfl, by simp [lo]⟩⟩
    | false =>
      obtain ⟨f1, found⟩ := seen yes.1 lo
      exact ⟨_, _, fun no => absurd yes no, fun _ => ⟨rfl, by simp [lo], fun _ => ⟨f1, found, rfl⟩⟩⟩
  · exact ⟨equi0, beat0, fun _ => ⟨rfl, rfl⟩, fun h => absurd h yes⟩

/-- The outcome of the clock abort with its two checks (R207). -/
theorem IsRate.clockAbort (h : IsRate cfg equi0 beat0 obs0 equi beat) :
    Arith.real.clockAbort (variantOf cfg.clockShared cfg.loShared) cfg ⟨equi0, beat0, obs0, obs1⟩ =
      if equi ≤ 0 then .error .errNumeric
      else if equi / 2 ≤ cfg.toneCutoff then .error .errArg
      else .ok (⟨equi, beat, obs0, obs1⟩,
        Arith.real.clockAborts (variantOf cfg.clockShared cfg.loShared) cfg equi0) := by
  rw [Arith.real_clockAbort, h.usedClock]

end Sys2Proof.Machine
end

section
/-! What a RUN without an error writes (45_pipeline.md R219, R222, R224 to R226). -/

namespace Sys2Proof.Machine

/-! The observed pilots (R206). -/

section observed

variable {R : Type} (A : Arith R)

/-- Which pilots a variant observes (R206): none in SS, one in SU and US, two in UU. -/
def Observed (v : Variant) (obs0 obs1 : Option R) : Prop :=
  match v with
  | .ss => obs0 = none ∧ obs1 = none
  | .su | .us => (∃ f1, obs0 = some f1) ∧ obs1 = none
  | .uu => (∃ f1, obs0 = some f1) ∧ ∃ f2, obs1 = some f2

theorem Arith.stage1_observed {v : Variant} {cfg : CfgBank R} {zones : List (R × R)} {cap : List (Cx R)}
    {est : Stage1 R} (h : A.stage1 v cfg zones cap = .ok est) : Observed v est.obs0 est.obs1 := by
  rw [Arith.stage1_eq_bind] at h
  cases v with
  | ss => cases h; exact ⟨rfl, rfl⟩
  | su | us =>
    obtain ⟨f, -, ⟨⟩⟩ := Except.bind_ok h
    exact ⟨⟨_, rfl⟩, rfl⟩
  | uu =>
    obtain ⟨f, -, ⟨⟩⟩ := Except.bind_ok h
    exact ⟨⟨_, rfl⟩, _, rfl⟩

theorem Arith.clockAbort_used {v : Variant} {cfg : CfgBank R} {est : Stage1 R} {clock : Stage1 R × Bool}
    (h : A.clockAbort v cfg est = .ok clock) : clock.1 = A.usedClock v cfg est := by
  rw [Arith.clockAbort_eq_checks] at h
  split at h
  · cases h
  · split at h
    · cases h
    · cases h
      rfl

/-- A RUN that succeeds has observed the pilots of its variant. -/
theorem Arith.run_observed {cfg : CfgBank R} {zones : List (R × R)} {cap : List (Cx R)} {o : RunOut R}
    (h : A.run cfg zones cap = .ok o) :
    o.v = variantOf cfg.clockShared cfg.loShared
    ∧ Observed (variantOf cfg.clockShared cfg.loShared) o.obs0 o.obs1 := by
  obtain ⟨q, est, clock, sy, trace⟩ := A.run_ok h
  obtain ⟨same0, same1⟩ := A.usedClock_obs (variantOf cfg.clockShared cfg.loShared) cfg est
  refine ⟨trace.variant, ?_⟩
  rw [trace.obs0, trace.obs1, A.clockAbort_used trace.clockAbort, same0, same1]
  exact A.stage1_observed trace.stage1

theorem Arith.run_meanShift {cfg : CfgBank R} {zones : List (R × R)} {cap : List (Cx R)} {o : RunOut R}
    (h : A.run cfg zones cap = .ok o) : o.meanShift = A.meanShift cfg o.fBeat o.frames := by
  obtain ⟨q, est, clock, sy, trace⟩ := A.run_ok h
  rw [trace.fBeat, trace.meanShift]

end observed

/-! The mean of the shifts (R225). -/

/-- The mean as a quotient (00_scope.md R7). -/
theorem Arith.real_mean_eq_sum_div (l : List ℝ) : Arith.real.mean l = l.sum / l.length := by
  have elements : (List.range l.length).map (Arith.real.relem l) = l :=
    List.ext_getElem (by simp) fun n _ hn => by
      rw [List.getElem_map, List.getElem_range, Arith.real_relem l hn]
  have sum : ∑ n ∈ Finset.range l.length, Arith.real.relem l n
      = ((List.range l.length).map (Arith.real.relem l)).sum := rfl
  rw [Arith.real_mean, sum, elements, one_div_mul_eq_div]

/-- The mean of the shifts applied, or the shift without a residual beat when no subframe was processed (R225). -/
theorem Arith.real_meanShift (cfg : CfgBank ℝ) (fBeat : ℝ) (frames : List (Subframe ℝ)) :
    let shifts := frames.filterMap Subframe.shift
    Arith.real.meanShift cfg fBeat frames
      = if shifts = [] then cfg.frequencyShift + fBeat else shifts.sum / shifts.length := by
  simp only [Arith.meanShift, List.isEmpty_iff, Arith.real_add, Arith.real_mean_eq_sum_div]

/-! The command. -/

variable {s : State} {o : RunOut NUM}

theorem exec_run_of_ok (ran : numArith.run s.cfg s.zones (s.buf BufId.cap) = .ok o) :
    exec .run s = .next (s.writeRun o).succeed := by
  rw [exec_eq_complete .run s (by simp)]
  simp [ruleOf, runRule, ran]

/-- The snapshot's shift (R224, R225). -/
theorem snapshot_freqShift (ran : numArith.run s.cfg s.zones (s.buf BufId.cap) = .ok o) :
    let shifts := (o.frames.filterMap Subframe.shift).map NUM.toReal
    o.meanShift.toReal
      = if shifts = [] then s.cfg.frequencyShift.toReal + o.fBeat.toReal else shifts.sum / shifts.length := by
  rw [numArith.run_meanShift ran, numArith_meanShift_toReal, Arith.real_meanShift, shifts_toReal]
  rfl

/-- The buffers that a RUN writes (R219): OUT always, the debug buffers when CFG_DEBUG is 1. -/
theorem State.writeRun_out (s : State) (o : RunOut NUM) : (s.writeRun o).buf BufId.out = o.symbols := by
  have other : BufId.out ≠ BufId.dbgPre ∧ BufId.out ≠ BufId.dbgTone := by decide
  simp [State.writeRun_buf, other]

theorem State.writeRun_debugBuffers (h : s.cfg.debug = true) (o : RunOut NUM) :
    (s.writeRun o).buf BufId.dbgTone = o.tones ∧ (s.writeRun o).buf BufId.dbgPre = o.preSymbols := by
  have other : BufId.dbgTone ≠ BufId.dbgPre := by decide
  constructor
  · rw [State.writeRun_buf, if_neg (fun both => other both.2), if_pos ⟨h, rfl⟩]
  · rw [State.writeRun_buf, if_pos ⟨h, rfl⟩]

theorem State.writeRun_debugBuffers_off (h : s.cfg.debug = false) (o : RunOut NUM) :
    (s.writeRun o).buf BufId.dbgTone = s.buf BufId.dbgTone
    ∧ (s.writeRun o).buf BufId.dbgPre = s.buf BufId.dbgPre := by
  have other : BufId.dbgTone ≠ BufId.out ∧ BufId.dbgPre ≠ BufId.out := by decide
  simp [State.writeRun_buf, h, other]

/-- Settles O41: the fields of `writeRun`, with the pilots that the variant has observed. -/
theorem runResult : Obligations.RunResult := by
  intro s o ran
  obtain ⟨status, sfCount, sfLen, snap, dbg, dbgTlen⟩ := s.writeRun_fields o
  have shift := snapshot_freqShift ran
  obtain ⟨variant, observed⟩ := numArith.run_observed ran
  refine ⟨_, exec_run_of_ok ran, ?_⟩
  simp only [State.succeed_buf, State.succeed_sfCount, State.succeed_sfLen, State.succeed_snap, State.succeed_status,
    State.succeed_dbg, State.succeed_dbgTlen, State.writeRun_out, status, sfCount, sfLen, snap]
  refine ⟨rfl, rfl, rfl, rfl, rfl, rfl, rfl, ⟨fun none => shift.trans (if_pos none),
    fun some => shift.trans (if_neg some)⟩, rfl, rfl, rfl, rfl, rfl, rfl, by simp, fun on => ?_, fun off => ?_⟩
  · obtain ⟨tones, preSymbols⟩ := State.writeRun_debugBuffers on o
    rw [tones, preSymbols, dbg, dbgTlen, if_pos on, if_pos on]
    refine ⟨by simp [on], rfl, rfl, rfl, rfl, rfl, rfl, rfl, rfl, ?_⟩
    simp only [Arith.debugRecord, variant]
    cases clock : s.cfg.clockShared <;> cases lo : s.cfg.loShared <;> rw [clock, lo] at observed
    case false.false =>
      obtain ⟨⟨f1, first⟩, f2, second⟩ := observed
      rw [first, second]
      exact ⟨rfl, rfl, rfl, rfl, NUM.toReal_sub f2 f1⟩
    case true.true =>
      obtain ⟨first, second⟩ := observed
      rw [first, second]
      exact ⟨rfl, rfl, rfl, rfl, rfl⟩
    all_goals
      obtain ⟨⟨f1, first⟩, second⟩ := observed
      rw [first, second]
      exact ⟨rfl, rfl, rfl, rfl, rfl⟩
  · obtain ⟨tones, preSymbols⟩ := State.writeRun_debugBuffers_off off o
    exact ⟨by simp [dbg, off], by simp [dbgTlen, off], tones, preSymbols, by simp [off]⟩

end Sys2Proof.Machine
end

section
/-! The resampler over the exact reals (40_resampler.md R102, R105): the samples that `downsample` takes, and the offset
that `bestpoint` finds, by their formulas. -/

namespace Sys2Proof.Machine

variable {N start k p : ℕ} {f : ℝ} {d : List (Cx ℝ)}

/-! The samples taken. -/

/-- The positions of the formula are those of the samples taken (R102). -/
theorem positionsOf_eq_range (hf : 0 < f) (N start : ℕ) :
    positionsOf N start f = Finset.range (Arith.real.downsampleLen N start f) := by
  ext k
  rw [positionsOf, Finset.mem_filter, Finset.mem_range, Finset.mem_range, Arith.lt_real_downsampleLen_iff hf,
    Int.le_sub_one_iff, and_iff_right_iff_imp]
  intro before
  have bound : (k : ℝ) ≤ N / f := by
    rw [le_div_iff₀ hf]
    have position := posOf_lt_iff.mp before
    have offset : (0 : ℝ) ≤ start := Nat.cast_nonneg start
    linarith
  have index : k ≤ ⌈(N : ℝ) / f⌉₊ := by exact_mod_cast bound.trans (Nat.le_ceil _)
  omega

@[simp] theorem card_positionsOf (hf : 0 < f) (N start : ℕ) :
    (positionsOf N start f).card = Arith.real.downsampleLen N start f := by
  rw [positionsOf_eq_range hf, Finset.card_range]

/-- A position of the formula is the index of a sample. -/
theorem posOf_of_mem (hf : 0 < f) (h : k ∈ positionsOf N start f) : ∃ n : ℕ, n < N ∧ posOf start f k = n := by
  rw [positionsOf_eq_range hf, Finset.mem_range, Arith.lt_real_downsampleLen_iff hf] at h
  lift posOf start f k to ℕ using posOf_nonneg hf with n
  exact ⟨n, by exact_mod_cast h, rfl⟩

/-- A sample that is taken is the one at its position (R102). -/
theorem realSampleAt_downsample (hf : 0 < f) (h : k < Arith.real.downsampleLen d.length start f) :
    realSampleAt (Arith.real.downsample Arith.real.czero d start f) k = realSampleAt d (posOf start f k) := by
  rw [Arith.downsample, realSampleAt_map_range _ h, Arith.real_pos]
  lift posOf start f k to ℕ using posOf_nonneg hf with n
  rw [realSampleAt_natCast]
  rfl

/-- From an offset within the sequence some sample is taken, and from no other (R105). -/
theorem real_downsampleLen_pos (hf : 0 < f) : 0 < Arith.real.downsampleLen N p f ↔ p < N := by
  rw [Arith.lt_real_downsampleLen_iff hf, posOf_lt_iff, Nat.cast_zero, zero_mul]
  constructor
  · intro h
    exact_mod_cast (by linarith : (p : ℝ) < N)
  · intro h
    have next : (p : ℝ) + 1 ≤ N := by exact_mod_cast h
    linarith

/-! The variance of a candidate. -/

/-- The population variance of the samples taken from an offset (R105, 00_scope.md R7). -/
theorem Arith.real_var_downsample (hf : 0 < f) (d : List (Cx ℝ)) (p : ℕ) :
    Arith.real.var (Arith.real.downsample Arith.real.czero d p f)
      = varianceAt d.length (realSampleAt d) f p := by
  have element {k : ℕ} (hk : k ∈ Finset.range (Arith.real.downsampleLen d.length p f)) :
      (Arith.real.elem (Arith.real.downsample Arith.real.czero d p f) k).toComplex
        = realSampleAt d (posOf p f k) := by
    rw [← realSampleAt_natCast, realSampleAt_downsample hf (Finset.mem_range.mp hk)]
  have mean : (Arith.real.cmean (Arith.real.downsample Arith.real.czero d p f)).toComplex
      = (∑ k ∈ Finset.range (Arith.real.downsampleLen d.length p f), realSampleAt d (posOf p f k))
        / (Arith.real.downsampleLen d.length p f : ℂ) := by
    rw [Arith.cmean, Arith.real_cscale, Arith.real_csumTo, Arith.downsample_length,
      Finset.sum_congr rfl fun k hk => element hk]
    simp [div_eq_inv_mul]
  rw [Arith.var, varianceAt, card_positionsOf hf, positionsOf_eq_range hf, Arith.real_mul, Arith.real_sumTo,
    Arith.downsample_length, Arith.real_div, Arith.real_one, Arith.real_nat, one_div_mul_eq_div]
  refine congrArg (· / _) (Finset.sum_congr rfl fun k hk => ?_)
  rw [Arith.real_normSq, Arith.real_csub, mean, element hk, Complex.normSq_eq_norm_sq]

/-- The variance depends on the samples within the sequence only. -/
theorem varianceAt_congr (hf : 0 < f) {x y : ℤ → ℂ} (h : ∀ n : ℕ, n < N → x n = y n) (p : ℕ) :
    varianceAt N x f p = varianceAt N y f p := by
  have same (k : ℕ) (hk : k ∈ positionsOf N p f) : x (posOf p f k) = y (posOf p f k) := by
    obtain ⟨n, hn, position⟩ := posOf_of_mem hf hk
    rw [position, h n hn]
  rw [varianceAt, varianceAt, Finset.sum_congr rfl same]
  exact congrArg (· / _) (Finset.sum_congr rfl fun k hk => by rw [same k hk])

/-! The first maximum (00_scope.md R6). -/

/-- The least index of greatest value among those that satisfy `P` is one only. -/
theorem firstMax_unique {P : ℕ → Prop} {g : ℕ → ℝ} {i j : ℕ} (hi : P i) (hj : P j)
    (maxi : ∀ k, P k → g k ≤ g i ∧ (k < i → g k < g i)) (maxj : ∀ k, P k → g k ≤ g j ∧ (k < j → g k < g j)) :
    i = j := by
  have notLess : ¬ i < j := fun less => ((maxj i hi).2 less).not_ge (maxi j hj).1
  have notGreater : ¬ j < i := fun greater => ((maxi j hj).2 greater).not_ge (maxj i hi).1
  exact Nat.le_antisymm (not_lt.mp notGreater) (not_lt.mp notLess)

/-! The best offset (R105). -/

theorem IsBestpoint.congr (hf : 0 < f) {x y : ℤ → ℂ} (h : ∀ n : ℕ, n < N → x n = y n)
    (best : IsBestpoint N x f p) : IsBestpoint N y f p := by
  simpa only [IsBestpoint, varianceAt_congr hf h] using best

/-- There is one best offset. -/
theorem IsBestpoint.unique {x : ℤ → ℂ} {p' : ℕ} (h : IsBestpoint N x f p) (h' : IsBestpoint N x f p') : p = p' := by
  obtain ⟨below, inside, greatest⟩ := h
  obtain ⟨below', inside', greatest'⟩ := h'
  exact firstMax_unique (P := fun i => (i : ℤ) < ⌈f⌉ ∧ i < N) ⟨below, inside⟩ ⟨below', inside'⟩
    (fun k hk => greatest k hk.1 hk.2) fun k hk => greatest' k hk.1 hk.2

/-- The candidate offsets: those below the factor, within the sequence (R105). -/
noncomputable def candidateOffsets (N : ℕ) (f : ℝ) : List ℕ := (List.range ⌈f⌉.toNat).filter (· < N)

theorem mem_candidateOffsets : p ∈ candidateOffsets N f ↔ (p : ℤ) < ⌈f⌉ ∧ p < N := by
  rw [candidateOffsets, List.mem_filter, List.mem_range, decide_eq_true_eq, Int.lt_toNat]

/-- The candidates with their variances (R105). -/
theorem Arith.real_candidates (hf : 0 < f) (d : List (Cx ℝ)) :
    Arith.real.candidates d f
      = (candidateOffsets d.length f).map fun p => (p, varianceAt d.length (realSampleAt d) f p) := by
  rw [candidateOffsets, ← List.filterMap_eq_map, List.filterMap_filter, Arith.candidates, Arith.real_ceil]
  refine List.filterMap_congr fun p _ => ?_
  have taken : (Arith.real.downsample Arith.real.czero d p f).isEmpty = true ↔ ¬ p < d.length := by
    rw [← real_downsampleLen_pos hf, List.isEmpty_iff_length_eq_zero, Arith.downsample_length, Nat.pos_iff_ne_zero,
      not_not]
  simp only [taken, Arith.real_var_downsample hf]
  by_cases inside : p < d.length <;> simp [inside]

/-- In a sequence that is not empty `bestpoint` finds the best offset (R105). -/
theorem Arith.real_bestpoint (hf : 0 < f) (hd : d ≠ []) :
    IsBestpoint d.length (realSampleAt d) f (Arith.real.bestpoint d f) := by
  have zero : 0 ∈ candidateOffsets d.length f :=
    mem_candidateOffsets.mpr ⟨Int.ceil_pos.mpr hf, List.length_pos_iff.mpr hd⟩
  obtain ⟨p, hp, found, greatest⟩ := Arith.real_argmaxFirst_map (varianceAt d.length (realSampleAt d) f)
    (List.ne_nil_of_mem zero) (List.Pairwise.filter _ List.pairwise_lt_range)
  obtain ⟨below, inside⟩ := mem_candidateOffsets.mp hp
  rw [Arith.bestpoint, Arith.real_candidates hf, found, Option.getD_some]
  exact ⟨below, inside, fun p' below' inside' => greatest p' (mem_candidateOffsets.mpr ⟨below', inside'⟩)⟩

end Sys2Proof.Machine
end

section
/-! Stage 1 of RUN over the exact reals (45_pipeline.md R206): the pilots, the equivalent-rate estimate, and the stage in
each variant, by their formulas. -/

namespace Sys2Proof.Machine

/-- A sequence of two steps succeeds when both do. -/
theorem Except.bind_ok_iff {ε α β : Type} {x : Except ε α} {g : α → Except ε β} {b : β} :
    (x >>= g) = .ok b ↔ ∃ a, x = .ok a ∧ g a = .ok b := by
  refine ⟨Except.bind_ok, ?_⟩
  rintro ⟨a, rfl, h⟩
  exact h

variable {x : List (Cx ℝ)} {rate G f f1 f2 : ℝ} {zones : List (ℝ × ℝ)}

/-! Pilots (42_pilot_tone.md R143, R145). -/

/-- The search answers the pilot, and nothing else (R143). -/
theorem Arith.real_find1_ok_iff :
    Arith.real.find1 x rate zones = .ok f ↔ IsPilot x.length (realSampleAt x) rate zones f := by
  refine ⟨fun h => ?_, IsPilot.find1⟩
  by_cases some : ∃ k, AdmittedBin x.length rate zones k
  · obtain ⟨g, found, pilot⟩ := Arith.real_find1_some some
    rwa [Except.ok.inj (h.symm.trans found)]
  · cases h.symm.trans (Arith.real_find1_none some)

/-- The two searches answer the pair of pilots, and nothing else (R145). -/
theorem Arith.real_find2_ok_iff :
    Arith.real.find2 x rate zones G = .ok (f1, f2)
      ↔ IsPilotPair x.length (realSampleAt x) rate zones G f1 f2 := by
  simp only [Arith.find2_eq_bind, Except.bind_ok_iff, Arith.real_find1_ok_iff, Arith.real_sub, Arith.real_add,
    Arith.real_lesser, Arith.real_greater, Except.ok.injEq, Prod.mk.injEq, IsPilotPair]
  constructor
  · rintro ⟨fa, first, fb, second, rfl, rfl⟩
    exact ⟨fa, fb, first, second, rfl, rfl⟩
  · rintro ⟨fa, fb, first, second, rfl, rfl⟩
    exact ⟨fa, first, fb, second, rfl, rfl⟩

/-- Without a bin for one of the two searches there is no pair (R145). -/
theorem NoPilotPair.find2 (h : NoPilotPair x.length (realSampleAt x) rate zones G) :
    Arith.real.find2 x rate zones G = .error .errArg := by
  obtain noFirst | ⟨fa, first, noSecond⟩ := h
  · exact Arith.real_find2_none_first noFirst G
  · exact Arith.real_find2_none_second first noSecond

@[simp] theorem Arith.real_guardBand : Arith.real.rat Config.guardBand = 5000000 := by
  simp [Config.guardBand]

/-! The equivalent-rate estimate (42_pilot_tone.md R151). -/

section estimate

variable {T : ℕ} {fc fs : ℝ}

/-- A cutoff that is not below half the rate ends the estimate (R147, R151). -/
theorem Arith.real_eqrate_cutoff (hN : 2 ≤ x.length) (hf : f ≠ 0) (high : fs / 2 ≤ fc) :
    Arith.real.eqrate x f fs T fc = .error .errArg := by
  have refused : Arith.real.cutoffOk fc fs = false :=
    Bool.eq_false_iff.mpr fun ok => ((Arith.real_cutoffOk fc fs).mp ok).2.not_ge high
  have tone : Arith.real.tone x f fs T fc = .error .errArg := by simp [Arith.tone_eq_bind, refused]
  rw [Arith.eqrate_eq_bind, eqrate_checks hN hf, tone]
  rfl

/-- The estimate in its three outcomes (R146, R151), for taps, rate and cutoff in the ranges of R205. -/
theorem Arith.real_eqrate_eq (hN : 2 ≤ x.length) (hf : f ≠ 0) (hT : T ≠ 0) (hfs : 0 < fs) (hfc : 0 < fc) :
    let Δf := residualOf x.length (realSampleAt x) f fs T fc
    Arith.real.eqrate x f fs T fc =
      if fs / 2 ≤ fc then .error .errArg
      else if designSum T fc fs = 0 ∨ f + Δf = 0 then .error .errNumeric
      else .ok (fs / ((f + Δf) / f), Δf) := by
  intro Δf
  split
  next high => exact Arith.real_eqrate_cutoff hN hf high
  next low =>
    have ok : DesignOk T fc fs := ⟨hT, hfs, hfc, not_le.mp low⟩
    by_cases hS : designSum T fc fs = 0
    · rw [Arith.real_eqrate_none ok hN hf hS, if_pos (.inl hS)]
    · have value := Arith.real_eqrate ok hN hf hS
      dsimp only at value
      rw [value]
      exact if_congr (or_iff_right hS).symm rfl rfl

end estimate

/-! Stage 1. -/

variable {cfg : CfgBank ℝ} {cap : List (Cx ℝ)}

/-- The equivalent-rate estimate of variant US (R206). -/
theorem OperandsOk.eqrate (ok : OperandsOk cfg cap.length) (clock : cfg.clockShared = false)
    (lo : cfg.loShared = true) :
    let Δf := residualOf cap.length (realSampleAt cap) cfg.pilotFreq0 cfg.adcRate cfg.firSize.toNat cfg.toneCutoff
    Arith.real.eqrate cap cfg.pilotFreq0 cfg.adcRate cfg.firSize.toNat cfg.toneCutoff =
      if cfg.adcRate / 2 ≤ cfg.toneCutoff then .error .errArg
      else if designSum cfg.firSize.toNat cfg.toneCutoff cfg.adcRate = 0 ∨ cfg.pilotFreq0 + Δf = 0
        then .error .errNumeric
      else .ok (cfg.adcRate / ((cfg.pilotFreq0 + Δf) / cfg.pilotFreq0), Δf) := by
  obtain ⟨long, adcRate, -, -, -, -, -, -, taps, cutoff, -, -, pilot, -⟩ := ok
  exact Arith.real_eqrate_eq (by omega) (pilot clock lo) (Nat.one_le_iff_ne_zero.mp ((one_le_toNat_iff _).mpr taps))
    adcRate cutoff

/-- Stage 1 answers the values of its formula, and nothing else (R206). -/
theorem OperandsOk.stage1_ok_iff (ok : OperandsOk cfg cap.length) {equi beat : ℝ} {obs0 obs1 : Option ℝ} :
    Arith.real.stage1 (variantOf cfg.clockShared cfg.loShared) cfg zones cap = .ok ⟨equi, beat, obs0, obs1⟩
      ↔ IsStage1 cfg zones cap.length (realSampleAt cap) equi beat obs0 obs1 := by
  rw [Arith.stage1_eq_bind, IsStage1]
  cases clock : cfg.clockShared with
  | true =>
    cases lo : cfg.loShared with
    | true => simp [variantOf, eq_comm]
    | false =>
      simp only [variantOf, Except.bind_ok_iff, Arith.real_find1_ok_iff, Except.ok.injEq, Stage1.mk.injEq,
        Arith.real_sub]
      simp only [eq_comm]
  | false =>
    cases lo : cfg.loShared with
    | true =>
      simp only [variantOf, Except.bind_ok_iff, ok.eqrate clock lo]
      split
      next high => simp [high.not_gt]
      next low =>
        split
        next zero =>
          refine iff_of_false (by simp) ?_
          rintro ⟨-, sum, pilot, -⟩
          exact zero.elim sum pilot
        next nonzero =>
          obtain ⟨sum, pilot⟩ := not_or.mp nonzero
          simp [not_le.mp low, sum, pilot, eq_comm (a := equi), eq_comm (a := beat), eq_comm (a := obs0),
            eq_comm (a := obs1)]
    | false =>
      simp only [variantOf, Except.bind_ok_iff, Arith.real_guardBand, Except.ok.injEq, Stage1.mk.injEq]
      constructor
      · rintro ⟨⟨f1, f2⟩, found, rfl, rfl, rfl, rfl⟩
        exact ⟨f1, f2, Arith.real_find2_ok_iff.mp found, rfl, rfl, rfl, rfl⟩
      · rintro ⟨f1, f2, pair, rfl, rfl, rfl, rfl⟩
        exact ⟨(f1, f2), Arith.real_find2_ok_iff.mpr pair, rfl, rfl, rfl, rfl⟩

/-- Stage 1 fails by its formula (R206). -/
theorem OperandsOk.stage1_stops (ok : OperandsOk cfg cap.length) {e : ErrCode}
    (h : Stage1Stops cfg zones cap.length (realSampleAt cap) e) :
    Arith.real.stage1 (variantOf cfg.clockShared cfg.loShared) cfg zones cap = .error e := by
  rw [Stage1Stops] at h
  rw [Arith.stage1_eq_bind]
  cases clock : cfg.clockShared <;> cases lo : cfg.loShared <;> rw [clock, lo] at h
  case true.true => exact h.elim
  case true.false =>
    obtain ⟨none, rfl⟩ := h
    simp only [variantOf, Arith.real_find1_none none]
    rfl
  case false.true =>
    simp only [variantOf, ok.eqrate clock lo]
    obtain ⟨high, rfl⟩ | ⟨low, zero, rfl⟩ := h
    · rw [if_pos high]
      rfl
    · rw [if_neg low.not_ge, if_pos zero]
      rfl
  case false.false =>
    obtain ⟨none, rfl⟩ := h
    simp only [variantOf, Arith.real_guardBand, none.find2]
    rfl

/-- In variant UU stage 1 has observed a pilot (R206). -/
theorem IsStage1.observed {N : ℕ} {w : ℤ → ℂ} {equi beat : ℝ} {obs0 obs1 : Option ℝ}
    (h : IsStage1 cfg zones N w equi beat obs0 obs1) (clock : cfg.clockShared = false)
    (lo : cfg.loShared = false) : ∃ f1, obs0 = some f1 := by
  rw [IsStage1, clock, lo] at h
  obtain ⟨f1, f2, -, -, -, rfl, -⟩ := h
  exact ⟨f1, rfl⟩

end Sys2Proof.Machine
end

section
/-! Synchronisation of RUN over the exact reals (45_pipeline.md R208, R209): the corrected capture, the start of the
sequence, and the second pass of variant UU, by their formulas. -/

namespace Sys2Proof.Machine

/-! Sequences as functions of an integer index (00_scope.md R10). -/

/-- The de-shifted sequence is the formula at every index: outside the sequence both are 0 (44_filter.md R185). -/
theorem realSampleAt_fshift (x : List (Cx ℝ)) (f fs : ℝ) :
    realSampleAt (Arith.real.fshift x f fs) = shiftedBy (realSampleAt x) f fs := by
  have beyond (l : List (Cx ℝ)) {n : ℕ} (h : l.length ≤ n) : realSampleAt l n = 0 := by
    rw [realSampleAt, if_pos (Int.natCast_nonneg n), Int.toNat_natCast, List.getElem?_eq_none h]
    rfl
  funext n
  rcases lt_or_ge n 0 with before | inside
  · simp [shiftedBy, realSampleAt, before.not_ge]
  · lift n to ℕ using inside
    rcases lt_or_ge n x.length with within | after
    · exact Arith.real_fshift x f fs within
    · rw [shiftedBy, beyond x after, beyond _ (by simpa using after), zero_mul]

/-- A part of a sequence (00_scope.md section 5). -/
theorem realSampleAt_slice (x : List (Cx ℝ)) (lo hi : ℕ) :
    realSampleAt (slice x lo hi) = cutOut (realSampleAt x) lo hi := by
  funext n
  rcases lt_or_ge n 0 with before | inside
  · simp [cutOut, realSampleAt, before.not_ge]
  · lift n to ℕ using inside
    rw [cutOut]
    split
    next within =>
      have index : n < hi - lo := by omega
      rw [← Nat.cast_add, realSampleAt_natCast, realSampleAt_natCast, Arith.elem_slice _ _ index]
    next after =>
      have length : (slice x lo hi).length ≤ n := by
        rw [slice_length]
        omega
      rw [realSampleAt, if_pos (Int.natCast_nonneg n), Int.toNat_natCast, List.getElem?_eq_none length]
      rfl

theorem slice_length_of_le {α : Type} {x : List α} {lo hi : ℕ} (h : hi ≤ x.length) :
    (slice x lo hi).length = hi - lo := by
  rw [slice_length]
  omega

/-! The synchroniser (41_sequence_sync.md R124 to R127). -/

variable {N u L q st st' : ℕ} {w : ℤ → ℂ}

theorem IsSync.stop_le (h : IsSync N w u L q st) : st + L * q ≤ N := by
  obtain ⟨js, c, lo, hi, ls, -, -, -, -, -, -, fits⟩ := h
  exact fits

/-- There is one start: each of its two stages has one first maximum. -/
theorem IsSync.unique (h : IsSync N w u L q st) (h' : IsSync N w u L q st') : st = st' := by
  obtain ⟨js, c, lo, hi, ls, ⟨low, high, greatest⟩, hc, hlo, hhi, ⟨fits, best⟩, rfl, -⟩ := h
  obtain ⟨js', c', lo', hi', ls', ⟨low', high', greatest'⟩, hc', hlo', hhi', ⟨fits', best'⟩, rfl, -⟩ := h'
  obtain rfl : js = js' := firstMax_unique (P := fun j => N / 50 - 1 ≤ j ∧ j < N)
    ⟨low, high⟩ ⟨low', high'⟩ (fun k hk => greatest k hk.1 hk.2) (fun k hk => greatest' k hk.1 hk.2)
  obtain rfl : c = c' := by exact_mod_cast hc.trans hc'.symm
  obtain rfl : lo = lo' := by exact_mod_cast hlo.trans hlo'.symm
  obtain rfl : hi = hi' := hhi.trans hhi'.symm
  obtain rfl : ls = ls' := firstMax_unique (P := fun l => l + L * q ≤ hi - lo) fits fits' best best'
  rfl

/-! The stage. -/

variable {cfg : CfgBank ℝ} {zones : List (ℝ × ℝ)} {cap : List (Cx ℝ)}

/-- What the entry checks give the synchroniser (R205). -/
theorem EntryOk.sequence (h : EntryOk cfg N q) :
    50 ≤ N ∧ 1 ≤ cfg.sequenceLength.toNat ∧ 1 ≤ q ∧ cfg.sequenceLength.toNat * q ≤ N := by
  obtain ⟨-, -, ⟨long, -, -, -, -, length, -⟩, ⟨repeats, -⟩, fits, -⟩ := h
  exact ⟨long, (one_le_toNat_iff _).mpr length, repeats, fits⟩

/-- The capture corrected by a beat, with the sequence found at `st` (R208). -/
noncomputable def syncedAt (cfg : CfgBank ℝ) (cap : List (Cx ℝ)) (q : ℕ) (equi fBeat : ℝ) (st : ℕ) : Synced ℝ :=
  ⟨fBeat, Arith.real.fshift cap fBeat equi, st, st + cfg.sequenceLength.toNat * q⟩

/-- Correction and synchronisation by their formulas (R208). -/
theorem EntryOk.syncStage (h : EntryOk cfg cap.length q) (equi fBeat : ℝ) :
    ∃ st, Arith.real.syncStage cfg cap q equi fBeat = syncedAt cfg cap q equi fBeat st
      ∧ IsSync cap.length (shiftedBy (realSampleAt cap) fBeat equi) cfg.sequenceRoot.toNat cfg.sequenceLength.toNat q
        st := by
  obtain ⟨long, length, repeats, fits⟩ := h.sequence
  have shifted : (Arith.real.fshift cap fBeat equi).length = cap.length := Arith.fshift_length _ _ _ _
  obtain ⟨st, found, sync⟩ := Arith.real_sync_isSync (x := Arith.real.fshift cap fBeat equi) cfg.sequenceRoot.toNat
    (long.trans_eq shifted.symm) length repeats (fits.trans_eq shifted.symm)
  rw [shifted, realSampleAt_fshift] at sync
  refine ⟨st, ?_, sync⟩
  rw [Arith.syncStage, found]
  rfl

theorem EntryOk.syncStage_eq (h : EntryOk cfg cap.length q) {equi fBeat : ℝ}
    (sync : IsSync cap.length (shiftedBy (realSampleAt cap) fBeat equi) cfg.sequenceRoot.toNat
      cfg.sequenceLength.toNat q st) :
    Arith.real.syncStage cfg cap q equi fBeat = syncedAt cfg cap q equi fBeat st := by
  obtain ⟨st', found, sync'⟩ := h.syncStage equi fBeat
  rw [found, sync.unique sync']

/-- The second pass takes place: in variant UU, with 3 samples or more behind the sequence (R209). -/
def SecondPass (cfg : CfgBank ℝ) (N e : ℕ) : Prop :=
  cfg.clockShared = false ∧ cfg.loShared = false ∧ 3 ≤ min N (e + cfg.beatSampleCount.toNat) - e

variable {equi beat fBeat : ℝ} {obs0 obs1 : Option ℝ}

/-- In the variants but UU stage 2 is one synchronisation (R208). -/
theorem Arith.stage2_of_ne_uu {R : Type} (A : Arith R) {v : Variant} (h : v ≠ .uu) (cfg : CfgBank R)
    (zones : List (R × R)) (cap : List (Cx R)) (q : ℕ) (est : Stage1 R) :
    A.stage2 v cfg zones cap q est = .ok (A.syncStage cfg cap q est.equi est.fBeat) := by
  cases v with
  | uu => exact absurd rfl h
  | _ => rfl

/-- In variant UU the second pass follows (R209). -/
theorem Arith.stage2_uu {R : Type} (A : Arith R) (cfg : CfgBank R) (zones : List (R × R)) (cap : List (Cx R)) (q : ℕ)
    (est : Stage1 R) :
    A.stage2 .uu cfg zones cap q est
      = A.secondPass cfg zones cap q est.equi (A.syncStage cfg cap q est.equi est.fBeat) := rfl

/-- Without a second pass, stage 2 is its first synchronisation (R208, R209). -/
theorem EntryOk.stage2_once (entry : EntryOk cfg cap.length q)
    (sync : IsSync cap.length (shiftedBy (realSampleAt cap) beat equi) cfg.sequenceRoot.toNat
      cfg.sequenceLength.toNat q st)
    (no : ¬ SecondPass cfg cap.length (st + cfg.sequenceLength.toNat * q)) :
    Arith.real.stage2 (variantOf cfg.clockShared cfg.loShared) cfg zones cap q ⟨equi, beat, obs0, obs1⟩
      = .ok (syncedAt cfg cap q equi beat st) := by
  by_cases uu : variantOf cfg.clockShared cfg.loShared = .uu
  · obtain ⟨clock, lo⟩ := (variantOf_eq_uu_iff _ _).mp uu
    have short := not_le.mp fun long => no ⟨clock, lo, long⟩
    rw [uu, Arith.stage2_uu, entry.syncStage_eq sync, Arith.secondPass_eq_bind]
    exact if_pos short
  · rw [Arith.stage2_of_ne_uu _ uu, entry.syncStage_eq sync]

/-- With a second pass, stage 2 synchronises again, with the beat of the lower pilot behind the sequence (R209). -/
theorem EntryOk.stage2_twice (entry : EntryOk cfg cap.length q) {e : ℕ}
    (sync : IsSync cap.length (shiftedBy (realSampleAt cap) beat equi) cfg.sequenceRoot.toNat
      cfg.sequenceLength.toNat q st)
    (he : e = st + cfg.sequenceLength.toNat * q) (yes : SecondPass cfg cap.length e) :
    Arith.real.stage2 (variantOf cfg.clockShared cfg.loShared) cfg zones cap q ⟨equi, beat, obs0, obs1⟩
      = Arith.real.find2 (slice cap e (min cap.length (e + cfg.beatSampleCount.toNat))) equi zones 5000000
        >>= fun g => .ok (Arith.real.syncStage cfg cap q equi (g.1 - cfg.pilotFreq0)) := by
  subst he
  have ⟨clock, lo, long⟩ := yes
  rw [(variantOf_eq_uu_iff _ _).mpr ⟨clock, lo⟩, Arith.stage2_uu, entry.syncStage_eq sync, Arith.secondPass_eq_bind,
    ← Arith.real_guardBand]
  exact if_neg long.not_gt

/-- The pair of pilots behind the sequence (R209). -/
theorem real_find2_behind {e n : ℕ} {g1 g2 : ℝ} :
    Arith.real.find2 (slice cap e (min cap.length n)) equi zones 5000000 = .ok (g1, g2)
      ↔ IsPilotPair (min cap.length n - e) (cutOut (realSampleAt cap) e (min cap.length n)) equi zones 5000000 g1
        g2 := by
  rw [Arith.real_find2_ok_iff, slice_length_of_le (min_le_left _ _), realSampleAt_slice]

/-- Stage 2 answers the values of its formula (R208, R209). -/
theorem IsStage2.stage2 (entry : EntryOk cfg cap.length q)
    (h : IsStage2 cfg zones cap.length (realSampleAt cap) q equi beat fBeat st) :
    Arith.real.stage2 (variantOf cfg.clockShared cfg.loShared) cfg zones cap q ⟨equi, beat, obs0, obs1⟩
      = .ok (syncedAt cfg cap q equi fBeat st) := by
  obtain ⟨st1, sync1, once, twice⟩ := h
  by_cases second : SecondPass cfg cap.length (st1 + cfg.sequenceLength.toNat * q)
  · obtain ⟨g1, g2, pair, rfl, sync2⟩ := twice second
    rw [entry.stage2_twice sync1 rfl second, real_find2_behind.mpr pair]
    exact congrArg Except.ok (entry.syncStage_eq sync2)
  · obtain ⟨rfl, rfl⟩ := once second
    exact entry.stage2_once sync1 second

/-- What stage 2 answers has the values of its formula (R208, R209). -/
theorem isStage2_of_stage2 (entry : EntryOk cfg cap.length q) {sy : Synced ℝ}
    (h : Arith.real.stage2 (variantOf cfg.clockShared cfg.loShared) cfg zones cap q ⟨equi, beat, obs0, obs1⟩
      = .ok sy) :
    ∃ fBeat st, sy = syncedAt cfg cap q equi fBeat st
      ∧ IsStage2 cfg zones cap.length (realSampleAt cap) q equi beat fBeat st := by
  obtain ⟨st1, -, sync1⟩ := entry.syncStage equi beat
  by_cases second : SecondPass cfg cap.length (st1 + cfg.sequenceLength.toNat * q)
  · rw [entry.stage2_twice sync1 rfl second] at h
    obtain ⟨⟨g1, g2⟩, pair, ⟨⟩⟩ := Except.bind_ok h
    obtain ⟨st, found, sync2⟩ := entry.syncStage equi (g1 - cfg.pilotFreq0)
    exact ⟨_, st, found, st1, sync1, fun no => absurd second no,
      fun _ => ⟨g1, g2, real_find2_behind.mp pair, rfl, sync2⟩⟩
  · cases (entry.stage2_once sync1 second).symm.trans h
    exact ⟨beat, st1, rfl, st1, sync1, fun _ => ⟨rfl, rfl⟩, fun yes => absurd yes second⟩

/-- The second pass without a pair of pilots fails (R209). -/
theorem Stage2Stops.stage2 (entry : EntryOk cfg cap.length q)
    (h : Stage2Stops cfg zones cap.length (realSampleAt cap) q equi beat) :
    Arith.real.stage2 (variantOf cfg.clockShared cfg.loShared) cfg zones cap q ⟨equi, beat, obs0, obs1⟩
      = .error .errArg := by
  obtain ⟨clock, lo, st1, sync1, long, none⟩ := h
  rw [← realSampleAt_slice, ← slice_length_of_le (min_le_left _ _)] at none
  rw [entry.stage2_twice sync1 rfl ⟨clock, lo, long⟩, none.find2]
  rfl

end Sys2Proof.Machine
end

section
/-! One subframe of RUN over the exact reals (45_pipeline.md R213 to R218, R221, R225), by its formulas. -/

namespace Sys2Proof.Machine

/-- Sequences of reals of one length are equal when their elements are. -/
theorem realSampleAt_ext {x y : List (Cx ℝ)} (length : x.length = y.length)
    (h : ∀ n : ℕ, n < x.length → realSampleAt x n = realSampleAt y n) : x = y := by
  refine List.ext_getElem length fun n hx hy => Cx.toComplex_inj ?_
  have element := h n hx
  rwa [realSampleAt_natCast, realSampleAt_natCast, Arith.elem, Arith.elem, List.getD_eq_getElem _ _ hx,
    List.getD_eq_getElem _ _ hy] at element

/-- What the stages before the loop leave it (R205, R207, R210). -/
structure PlanReady (P : Plan ℝ) : Prop where
  variant : P.v = variantOf P.cfg.clockShared P.cfg.loShared
  factor : P.sps = P.equi / P.cfg.symbolRate
  symbolRate : 0 < P.cfg.symbolRate
  design : DesignOk P.cfg.firSize.toNat P.cfg.toneCutoff P.equi
  fits : P.dataEnd ≤ P.x.length

variable {P : Plan ℝ} {w : List (Cx ℝ)} {fp beat : ℝ}

theorem PlanReady.sps_pos (ready : PlanReady P) : 0 < P.equi / P.cfg.symbolRate :=
  div_pos ready.design.rate ready.symbolRate

/-! The window (R211 to R213). -/

/-- Rounding half down, not below 0 (00_scope.md R5). -/
theorem Arith.real_rhd_toNat (x : ℝ) : (Arith.real.rhd x).toNat = ⌈x - 1 / 2⌉₊ := by
  rw [← Int.ceil_toNat]
  simp [Arith.rhd]

theorem PlanReady.window (ready : PlanReady P) (j cursor : ℕ) :
    Arith.real.window P j cursor = windowOf P.cfg P.e P.dataEnd P.equi j cursor := by
  simp only [Arith.window, windowOf, ready.variant, variantOf_aPriori, ready.factor, Arith.real_rhd_toNat,
    Arith.real_mul, Arith.real_nat]
  rfl

theorem windowOf_snd_le (cfg : CfgBank ℝ) (e dataEnd : ℕ) (equi : ℝ) (j cursor : ℕ) :
    (windowOf cfg e dataEnd equi j cursor).2 ≤ dataEnd := min_le_left _ _

theorem PlanReady.advance (ready : PlanReady P) (b p ny cursor : ℕ) :
    Arith.real.advance P b p ny cursor
      = if P.cfg.clockShared then cursor
        else ⌈((b + p : ℕ) : ℝ) + ny * (P.equi / P.cfg.symbolRate) - 1 / 2⌉₊ := by
  simp only [Arith.advance, ready.variant, variantOf_aPriori, ready.factor, Arith.real_rhd_toNat, Arith.real_add,
    Arith.real_mul, Arith.real_nat]

/-! Tracking (R214). -/

/-- Tracking answers the pilot and the beat of the formula, and nothing else. -/
theorem PlanReady.track_ok_iff (ready : PlanReady P) :
    Arith.real.track P w = .ok (fp, beat)
      ↔ IsTracked P.cfg P.zones P.equi w.length (realSampleAt w) fp beat := by
  rw [Arith.track, ready.variant, IsTracked]
  cases P.cfg.clockShared <;> cases P.cfg.loShared <;> simp only [variantOf]
  case false.false =>
    rw [Arith.real_guardBand]
    constructor
    · intro h
      split at h
      · cases h
      next f1 f2 found =>
        cases h
        exact ⟨⟨f2, Arith.real_find2_ok_iff.mp found⟩, rfl⟩
    · rintro ⟨⟨f2, pair⟩, rfl⟩
      rw [Arith.real_find2_ok_iff.mpr pair]
      rfl
  all_goals
    constructor
    · intro h
      split at h
      · cases h
      next f1 found =>
        cases h
        exact ⟨Arith.real_find1_ok_iff.mp found, by simp⟩
    · rintro ⟨pilot, rfl⟩
      rw [pilot.find1]
      simp

/-- Without a pilot tracking fails. -/
theorem PlanReady.track_stops (ready : PlanReady P)
    (h : Untracked P.cfg P.zones P.equi w.length (realSampleAt w)) : Arith.real.track P w = .error .errArg := by
  rw [Arith.track, ready.variant]
  rw [Untracked] at h
  cases clock : P.cfg.clockShared <;> cases lo : P.cfg.loShared <;> simp only [variantOf] <;>
    simp only [clock, lo] at h
  case false.false =>
    rw [Arith.real_guardBand]
    have none : NoPilotPair w.length (realSampleAt w) P.equi P.zones 5000000 := by simpa using h
    rw [none.find2]
  all_goals
    have none : NoPilot w.length P.equi P.zones := by simpa using h
    rw [Arith.real_find1_none none]

/-! From the tracked pilot to the symbols (R215 to R218). -/

/-- The filtered window by the formulas of R185 and R191 (R216). -/
theorem PlanReady.filtered (ready : PlanReady P) (beat : ℝ) {n : ℕ} (hn : n < w.length) :
    realSampleAt (Arith.real.filtered P w beat) n
      = filteredBy (P.equi / P.cfg.symbolRate) P.cfg.rollOff P.cfg.symbolRate P.equi
        (shiftedBy (realSampleAt w) (P.cfg.frequencyShift + beat) P.equi) n := by
  rw [Arith.filtered, Arith.real_mfilt _ _ _ _ _ (by simpa using hn), realSampleAt_fshift, ready.factor]
  rfl

theorem filtered_length (P : Plan ℝ) (w : List (Cx ℝ)) (beat : ℝ) : (Arith.real.filtered P w beat).length = w.length := by
  simp [Arith.filtered]

/-- The phase noise of the tone by the formulas (R215, 43_phase_corrector.md R173). -/
theorem real_phnoise_of_tone {t : List (Cx ℝ)} {tone : ℤ → ℂ}
    (elements : ∀ n : ℕ, n < t.length → realSampleAt t n = tone n) (f fs : ℝ) (W : ℕ) {n : ℕ} (hn : n < t.length) :
    Arith.real.relem (Arith.real.phnoise t f fs W) n = smoothOf t.length W (phasediffOf tone f fs) n := by
  rw [Arith.real_phnoise t f fs W hn]
  exact smoothOf_congr (fun k hk => phasediffOf_congr f fs elements hk) hn

theorem PlanReady.rawSymbols_length (ready : PlanReady P) (w : List (Cx ℝ)) (beat : ℝ) :
    (Arith.real.rawSymbols P w beat).length
      = Arith.real.downsampleLen w.length (Arith.real.samplingOffset P w beat) (P.equi / P.cfg.symbolRate) := by
  rw [Arith.rawSymbols, Arith.downsample_length, filtered_length, ready.factor]

/-- The sampling offset by the formula (R217). -/
theorem PlanReady.isBestpoint (ready : PlanReady P) (hw : w ≠ []) (beat : ℝ) :
    IsBestpoint w.length
      (filteredBy (P.equi / P.cfg.symbolRate) P.cfg.rollOff P.cfg.symbolRate P.equi
        (shiftedBy (realSampleAt w) (P.cfg.frequencyShift + beat) P.equi))
      (P.equi / P.cfg.symbolRate) (Arith.real.samplingOffset P w beat) := by
  have some : Arith.real.filtered P w beat ≠ [] := by
    rwa [← List.length_pos_iff, filtered_length, List.length_pos_iff]
  have best := Arith.real_bestpoint ready.sps_pos some
  rw [filtered_length] at best
  rw [Arith.samplingOffset, ready.factor]
  exact best.congr ready.sps_pos fun n hn => ready.filtered beat hn

/-- In a window that is not empty, with taps that do not sum to 0, steps b to f give the chain of the formulas: the
trajectory has the length of the window, so that the phase correction does not fail (R215 to R218). -/
theorem PlanReady.chain (ready : PlanReady P) (hw : w ≠ [])
    (hS : designSum P.cfg.firSize.toNat P.cfg.toneCutoff P.equi ≠ 0) (fp beat : ℝ) (shift : Option ℝ) :
    ∃ t z, Arith.real.tone w fp P.equi P.cfg.firSize.toNat P.cfg.toneCutoff = .ok t
      ∧ Arith.real.phcorr (Arith.real.rawSymbols P w beat)
          (Arith.real.phnoise t (P.cfg.pilotFreq0 + beat) P.equi P.cfg.phaseFilterSize.toNat)
          (Arith.real.samplingOffset P w beat) P.sps = .ok z
      ∧ IsChain P.cfg P.equi w.length (realSampleAt w) fp beat (Arith.real.samplingOffset P w beat)
          ⟨z, Arith.real.rawSymbols P w beat, t, shift⟩ := by
  have hsps := ready.sps_pos
  have best := ready.isBestpoint hw beat
  have count := ready.rawSymbols_length w beat
  obtain ⟨t, tone, length, samples⟩ := Arith.real_tone_some ready.design hS w fp
  have taken {k : ℕ} (hk : k < (Arith.real.rawSymbols P w beat).length) :
      ∃ n : ℕ, n < w.length
        ∧ posOf (Arith.real.samplingOffset P w beat) (P.equi / P.cfg.symbolRate) k = n := by
    rw [count, ← Finset.mem_range, ← positionsOf_eq_range hsps] at hk
    exact posOf_of_mem hsps hk
  have symbols : 0 < (Arith.real.rawSymbols P w beat).length := by
    obtain ⟨-, inside, -⟩ := best
    rwa [count, real_downsampleLen_pos hsps]
  have trajectory :
      (Arith.real.phnoise t (P.cfg.pilotFreq0 + beat) P.equi P.cfg.phaseFilterSize.toNat).length = w.length := by
    rw [Arith.phnoise_length, length]
  obtain ⟨z, corrected, same, turned⟩ := Arith.real_phcorr_some (y := Arith.real.rawSymbols P w beat)
    (φ := Arith.real.phnoise t (P.cfg.pilotFreq0 + beat) P.equi P.cfg.phaseFilterSize.toNat)
    (start := Arith.real.samplingOffset P w beat) hsps (List.length_pos_iff.mp symbols) (by
      obtain ⟨n, inside, position⟩ := taken (Nat.sub_one_lt_of_lt symbols)
      rw [position, trajectory]
      exact_mod_cast inside)
  refine ⟨t, z, tone, by rw [ready.factor, corrected], hS, length, samples, best, ?_, fun k hk => ?_, same,
    fun k hk => ?_⟩
  · rw [count, card_positionsOf hsps]
  · obtain ⟨n, inside, position⟩ := taken hk
    have sample := realSampleAt_downsample (d := Arith.real.filtered P w beat) hsps
      (by rw [filtered_length, ← count]; exact hk)
    rw [position, ready.filtered beat inside] at sample
    rw [position, ← sample, Arith.rawSymbols, ready.factor]
  · obtain ⟨n, inside, position⟩ := taken hk
    rw [turned k hk, position, Int.toNat_natCast,
      real_phnoise_of_tone (fun n hn => samples n (length ▸ hn)) _ _ _ (length ▸ inside), length]

end Sys2Proof.Machine
end

section
/-! The subframe loop of RUN over the exact reals (45_pipeline.md R213, R220, R221): a turn of the loop answers what the
formulas say, and nothing else, and the loop strings the turns together by its sample cursor. -/

namespace Sys2Proof.Machine

/-! There is one result of a window. -/

/-- The chain of one window has one result. -/
theorem IsChain.unique {cfg : CfgBank ℝ} {equi fp beat : ℝ} {m p p' : ℕ} {w : ℤ → ℂ} {f f' : Subframe ℝ}
    (h : IsChain cfg equi m w fp beat p f) (h' : IsChain cfg equi m w fp beat p' f') :
    p = p' ∧ f.z = f'.z ∧ f.y = f'.y ∧ f.t = f'.t := by
  obtain ⟨-, tLength, tones, best, yLength, raw, zLength, turned⟩ := h
  obtain ⟨-, tLength', tones', best', yLength', raw', zLength', turned'⟩ := h'
  obtain rfl := best.unique best'
  have sameLength : f.y.length = f'.y.length := yLength.trans yLength'.symm
  have sameRaw : f.y = f'.y := realSampleAt_ext sameLength fun k hk => by rw [raw k hk, raw' k (sameLength ▸ hk)]
  refine ⟨rfl, realSampleAt_ext (by rw [zLength, zLength', sameLength]) fun k hk => ?_, sameRaw,
    realSampleAt_ext (tLength.trans tLength'.symm) fun n hn => ?_⟩
  · rw [zLength] at hk
    rw [turned k hk, turned' k (sameLength ▸ hk), sameRaw]
  · rw [tLength] at hn
    rw [tones n hn, tones' n hn]

variable {P : Plan ℝ} {j b hi cursor next : ℕ} {fp beat : ℝ} {f : Subframe ℝ}

/-- The pilot `fp` and the beat `beat` are tracked in the samples from `b` to `hi` (R214). -/
def Plan.Tracks (P : Plan ℝ) (b hi : ℕ) (fp beat : ℝ) : Prop :=
  IsTracked P.cfg P.zones P.equi (hi - b) (cutOut (realSampleAt P.x) b hi) fp beat

theorem PlanReady.track_slice_iff (ready : PlanReady P) (fits : hi ≤ P.x.length) :
    Arith.real.track P (slice P.x b hi) = .ok (fp, beat) ↔ P.Tracks b hi fp beat := by
  rw [ready.track_ok_iff, slice_length_of_le fits, realSampleAt_slice, Plan.Tracks]

/-- A window has one tracked pilot. -/
theorem PlanReady.tracks_unique (ready : PlanReady P) (fits : hi ≤ P.x.length) {fp' beat' : ℝ}
    (h : P.Tracks b hi fp beat) (h' : P.Tracks b hi fp' beat') : fp = fp' ∧ beat = beat' := by
  have same := ((ready.track_slice_iff fits).mpr h).symm.trans ((ready.track_slice_iff fits).mpr h')
  exact Prod.mk.inj (Except.ok.inj same)

/-! One turn of the loop. -/

/-- The formulas of R213 to R221 for subframe `j` of a plan. -/
def Plan.Delivers (P : Plan ℝ) (j cursor next : ℕ) (f : Subframe ℝ) : Prop :=
  IsSubframe P.cfg P.zones (realSampleAt P.x) P.e P.dataEnd P.equi P.fBeat j cursor next f

/-- The window of subframe `j` (R213). -/
noncomputable def Plan.windowAt (P : Plan ℝ) (j cursor : ℕ) : ℕ × ℕ :=
  windowOf P.cfg P.e P.dataEnd P.equi j cursor

theorem PlanReady.window_fits (ready : PlanReady P) (window : P.windowAt j cursor = (b, hi)) : hi ≤ P.x.length := by
  have stop := windowOf_snd_le P.cfg P.e P.dataEnd P.equi j cursor
  rw [← Plan.windowAt, window] at stop
  exact stop.trans ready.fits

/-- A window of fewer than 3 samples yields nothing (R213). -/
theorem Plan.delivers_iff_of_short (window : P.windowAt j cursor = (b, hi)) (short : hi - b < 3) :
    P.Delivers j cursor next f ↔ f = ⟨[], [], [], none⟩ ∧ next = cursor := by
  rw [Plan.Delivers, IsSubframe, ← Plan.windowAt, window]
  exact ⟨fun h => h.1 short, fun h => ⟨fun _ => h, fun long => absurd short long.not_gt⟩⟩

/-- Any other window yields what was made of its tracked pilot (R214 to R218, R221, R225). -/
theorem Plan.delivers_iff_of_long (window : P.windowAt j cursor = (b, hi)) (long : 3 ≤ hi - b) :
    P.Delivers j cursor next f ↔ ∃ (fp beat : ℝ) (p : ℕ), P.Tracks b hi fp beat
      ∧ IsChain P.cfg P.equi (hi - b) (cutOut (realSampleAt P.x) b hi) fp beat p f
      ∧ f.shift = some (P.cfg.frequencyShift + P.fBeat + beat)
      ∧ next = if P.cfg.clockShared then cursor
        else ⌈((b + p : ℕ) : ℝ) + f.y.length * (P.equi / P.cfg.symbolRate) - 1 / 2⌉₊ := by
  rw [Plan.Delivers, IsSubframe, ← Plan.windowAt, window]
  exact ⟨fun h => h.2 long, fun h => ⟨fun short => absurd long short.not_ge, fun _ => h⟩⟩

theorem PlanReady.subframe_short (ready : PlanReady P) (window : P.windowAt j cursor = (b, hi)) (short : hi - b < 3) :
    Arith.real.subframe P j cursor = .ok (⟨[], [], [], none⟩, cursor) := by
  rw [Arith.subframe, ready.window, ← Plan.windowAt, window]
  exact if_pos short

theorem PlanReady.subframe_long (ready : PlanReady P) (window : P.windowAt j cursor = (b, hi)) (long : 3 ≤ hi - b) :
    Arith.real.subframe P j cursor = Arith.real.processSubframe P b hi cursor := by
  rw [Arith.subframe, ready.window, ← Plan.windowAt, window]
  exact if_neg long.not_gt

/-- A window with a tracked pilot, with taps that do not sum to 0. -/
theorem PlanReady.subframe_tracked (ready : PlanReady P) (window : P.windowAt j cursor = (b, hi)) (long : 3 ≤ hi - b)
    (tracked : Arith.real.track P (slice P.x b hi) = .ok (fp, beat))
    (hS : designSum P.cfg.firSize.toNat P.cfg.toneCutoff P.equi ≠ 0) :
    ∃ f next, Arith.real.subframe P j cursor = .ok (f, next) ∧ P.Delivers j cursor next f := by
  have fits := ready.window_fits window
  have length := slice_length_of_le fits (lo := b)
  have samples : slice P.x b hi ≠ [] := List.length_pos_iff.mp (by omega)
  obtain ⟨t, z, tone, corrected, chain⟩ :=
    ready.chain samples hS fp beat (some (P.cfg.frequencyShift + P.fBeat + beat))
  rw [length, realSampleAt_slice] at chain
  have turn : Arith.real.processSubframe P b hi cursor
      = .ok (⟨z, Arith.real.rawSymbols P (slice P.x b hi) beat, t, some (P.cfg.frequencyShift + P.fBeat + beat)⟩,
          Arith.real.advance P b (Arith.real.samplingOffset P (slice P.x b hi) beat)
            (Arith.real.rawSymbols P (slice P.x b hi) beat).length cursor) := by
    simp only [Arith.processSubframe_eq_bind, tracked, tone, Arith.real_add, corrected, bind, Except.bind]
  rw [ready.subframe_long window long, turn]
  exact ⟨_, _, rfl, (Plan.delivers_iff_of_long window long).mpr
    ⟨fp, beat, _, (ready.track_slice_iff fits).mp tracked, chain, rfl, ready.advance _ _ _ _⟩⟩

/-- What a turn of the loop answers is by the formulas. -/
theorem PlanReady.delivers_of_subframe (ready : PlanReady P)
    (h : Arith.real.subframe P j cursor = .ok (f, next)) : P.Delivers j cursor next f := by
  obtain ⟨b, hi, window⟩ : ∃ b hi, P.windowAt j cursor = (b, hi) := ⟨_, _, rfl⟩
  rcases lt_or_ge (hi - b) 3 with short | long
  · cases (ready.subframe_short window short).symm.trans h
    exact (Plan.delivers_iff_of_short window short).mpr ⟨rfl, rfl⟩
  · have steps := h
    rw [ready.subframe_long window long, Arith.processSubframe_eq_bind] at steps
    obtain ⟨⟨fp, beat⟩, tracked, steps⟩ := Except.bind_ok steps
    obtain ⟨t, tone, -⟩ := Except.bind_ok steps
    have hS : designSum P.cfg.firSize.toNat P.cfg.toneCutoff P.equi ≠ 0 := fun zero => by
      cases tone.symm.trans (Arith.real_tone_none ready.design zero _ fp)
    obtain ⟨f', next', found, delivers⟩ := ready.subframe_tracked window long tracked hS
    cases found.symm.trans h
    exact delivers

/-- The formulas of a subframe have one solution. -/
theorem PlanReady.delivers_unique (ready : PlanReady P) {f' : Subframe ℝ} {next' : ℕ}
    (h : P.Delivers j cursor next f) (h' : P.Delivers j cursor next' f') : f = f' ∧ next = next' := by
  obtain ⟨b, hi, window⟩ : ∃ b hi, P.windowAt j cursor = (b, hi) := ⟨_, _, rfl⟩
  rcases lt_or_ge (hi - b) 3 with short | long
  · rw [Plan.delivers_iff_of_short window short] at h h'
    exact ⟨h.1.trans h'.1.symm, h.2.trans h'.2.symm⟩
  · rw [Plan.delivers_iff_of_long window long] at h h'
    obtain ⟨fp, beat, p, tracked, chain, shift, rfl⟩ := h
    obtain ⟨fp', beat', p', tracked', chain', shift', rfl⟩ := h'
    obtain ⟨rfl, rfl⟩ := ready.tracks_unique (ready.window_fits window) tracked tracked'
    obtain ⟨rfl, z, y, t⟩ := chain.unique chain'
    refine ⟨?_, by rw [y]⟩
    cases f
    cases f'
    rw [Subframe.mk.injEq]
    exact ⟨z, y, t, shift.trans shift'.symm⟩

/-- A turn of the loop answers what the formulas say, and nothing else. -/
theorem PlanReady.subframe_ok_iff (ready : PlanReady P) :
    Arith.real.subframe P j cursor = .ok (f, next) ↔ P.Delivers j cursor next f := by
  refine ⟨ready.delivers_of_subframe, fun h => ?_⟩
  suffices answers : ∃ f' next', Arith.real.subframe P j cursor = .ok (f', next') ∧ P.Delivers j cursor next' f' by
    obtain ⟨f', next', found, delivers⟩ := answers
    obtain ⟨rfl, rfl⟩ := ready.delivers_unique h delivers
    exact found
  obtain ⟨b, hi, window⟩ : ∃ b hi, P.windowAt j cursor = (b, hi) := ⟨_, _, rfl⟩
  rcases lt_or_ge (hi - b) 3 with short | long
  · have answer := ready.subframe_short window short
    exact ⟨_, _, answer, ready.delivers_of_subframe answer⟩
  · obtain ⟨fp, beat, p, tracked, ⟨hS, -⟩, -⟩ := (Plan.delivers_iff_of_long window long).mp h
    exact ready.subframe_tracked window long ((ready.track_slice_iff (ready.window_fits window)).mpr tracked) hS

/-- A turn of the loop fails by its formula (R214, R215). -/
theorem PlanReady.subframe_stops (ready : PlanReady P) {e : ErrCode}
    (h : SubframeStops P.cfg P.zones (realSampleAt P.x) P.e P.dataEnd P.equi j cursor e) :
    Arith.real.subframe P j cursor = .error e := by
  obtain ⟨b, hi, window⟩ : ∃ b hi, P.windowAt j cursor = (b, hi) := ⟨_, _, rfl⟩
  rw [SubframeStops, ← Plan.windowAt, window] at h
  dsimp only at h
  obtain ⟨long, stops⟩ := h
  have fits := ready.window_fits window
  rw [ready.subframe_long window long, Arith.processSubframe_eq_bind]
  obtain ⟨untracked, rfl⟩ | ⟨⟨fp, beat, tracked⟩, zero, rfl⟩ := stops
  · rw [← realSampleAt_slice, ← slice_length_of_le fits] at untracked
    dsimp only
    rw [ready.track_stops untracked]
    rfl
  · simp only [(ready.track_slice_iff fits).mpr tracked, Arith.real_tone_none ready.design zero, bind, Except.bind]

/-! The loop (R220). -/

section loop

variable {R : Type} {A : Arith R} {P : Plan R}

/-- From subframe `j` on the turns of the loop have answered `frames`, with the sample cursor `cursor i` before turn
`i` of them. -/
def Turns (A : Arith R) (P : Plan R) (j : ℕ) (cursor : ℕ → ℕ) (frames : List (Subframe R)) : Prop :=
  ∀ (i : ℕ) (f : Subframe R), frames[i]? = some f → A.subframe P (j + i) (cursor i) = .ok (f, cursor (i + 1))

theorem turns_cons {j : ℕ} {cursor : ℕ → ℕ} {f : Subframe R} {frames : List (Subframe R)} :
    Turns A P j cursor (f :: frames)
      ↔ A.subframe P j (cursor 0) = .ok (f, cursor 1) ∧ Turns A P (j + 1) (fun i => cursor (i + 1)) frames := by
  constructor
  · intro h
    exact ⟨h 0 f rfl, fun i g hg => by rw [Nat.add_assoc, Nat.add_comm 1]; exact h (i + 1) g hg⟩
  · rintro ⟨first, rest⟩ i g hg
    cases i with
    | zero =>
      cases hg
      exact first
    | succ i =>
      have turn := rest i g hg
      rwa [Nat.add_assoc, Nat.add_comm 1] at turn

/-- A sample cursor that begins at `begin` and goes on as another one. -/
def cursorFrom (begin : ℕ) (cursor : ℕ → ℕ) : ℕ → ℕ
  | 0 => begin
  | i + 1 => cursor i

/-- A loop that succeeds has made its turns. -/
theorem Arith.turns_of_subframes {n j begin : ℕ} {frames : List (Subframe R)}
    (h : A.subframes P n j begin = .ok frames) : ∃ cursor, cursor 0 = begin ∧ Turns A P j cursor frames := by
  induction n generalizing j begin frames with
  | zero =>
    cases h
    exact ⟨fun _ => begin, rfl, fun i f hf => by cases hf⟩
  | succ n ih =>
    rw [Arith.subframes_succ] at h
    obtain ⟨⟨f, next⟩, first, h⟩ := Except.bind_ok h
    obtain ⟨rest, later, ⟨⟩⟩ := Except.bind_ok h
    obtain ⟨cursor, rfl, turns⟩ := ih later
    exact ⟨cursorFrom begin cursor, rfl, turns_cons.mpr ⟨first, turns⟩⟩

/-- A loop whose turns answer succeeds. -/
theorem Turns.subframes {j : ℕ} {cursor : ℕ → ℕ} {frames : List (Subframe R)} (h : Turns A P j cursor frames) :
    A.subframes P frames.length j (cursor 0) = .ok frames := by
  induction frames generalizing j cursor with
  | nil => rfl
  | cons f frames ih =>
    obtain ⟨first, rest⟩ := turns_cons.mp h
    rw [List.length_cons, Arith.subframes_succ, first]
    dsimp only [bind, Except.bind]
    rw [ih rest]

/-- A loop ends with the error of the first turn that fails. -/
theorem Turns.subframes_error {n j : ℕ} {cursor : ℕ → ℕ} {frames : List (Subframe R)} {e : ErrCode}
    (h : Turns A P j cursor frames) (more : frames.length < n)
    (stops : A.subframe P (j + frames.length) (cursor frames.length) = .error e) :
    A.subframes P n j (cursor 0) = .error e := by
  induction frames generalizing n j cursor with
  | nil =>
    obtain ⟨n, rfl⟩ := Nat.exists_eq_succ_of_ne_zero more.ne'
    rw [Arith.subframes_succ, show A.subframe P j (cursor 0) = .error e from stops]
    rfl
  | cons f frames ih =>
    obtain ⟨n, rfl⟩ := Nat.exists_eq_succ_of_ne_zero (Nat.ne_zero_of_lt more)
    obtain ⟨first, rest⟩ := turns_cons.mp h
    rw [List.length_cons, Nat.add_comm frames.length, ← Nat.add_assoc, Nat.add_comm 1] at stops
    rw [Arith.subframes_succ, first]
    dsimp only [bind, Except.bind]
    rw [ih rest (Nat.succ_lt_succ_iff.mp more) stops]

end loop

end Sys2Proof.Machine
end

section
/-! RUN over the exact reals by its stages (45_pipeline.md R200): a RUN without an error has the values of the formulas
at every stage, and values of the formulas at the stages so far leave the rest of RUN to do. -/

namespace Sys2Proof.Machine

variable {cfg : CfgBank ℝ} {zones : List (ℝ × ℝ)} {cap : List (Cx ℝ)} {q st : ℕ} {equi0 beat0 equi beat fBeat : ℝ}
  {obs0 obs1 : Option ℝ}

/-! Stage 1 and the clock (R206, R207). -/

theorem EntryOk.operandsOk {N : ℕ} (h : EntryOk cfg N q) : OperandsOk cfg N := by
  obtain ⟨-, -, operands, -⟩ := h
  exact operands

/-- With the values of stage 1 and of the clock abort, the two checks on the rate decide (R207). -/
theorem EntryOk.run_of_rate (entry : EntryOk cfg cap.length q)
    (stage1 : IsStage1 cfg zones cap.length (realSampleAt cap) equi0 beat0 obs0 obs1)
    (rate : IsRate cfg equi0 beat0 obs0 equi beat) :
    Arith.real.run cfg zones cap =
      if equi ≤ 0 then .error .errNumeric
      else if equi / 2 ≤ cfg.toneCutoff then .error .errArg
      else Arith.real.fromClock cfg zones cap q (⟨equi, beat, obs0, obs1⟩,
        Arith.real.clockAborts (variantOf cfg.clockShared cfg.loShared) cfg equi0) := by
  rw [entry.run_eq, Arith.fromEntry, entry.operandsOk.stage1_ok_iff.mpr stage1]
  refine (congrArg (· >>= Arith.real.fromClock cfg zones cap q) rate.clockAbort).trans ?_
  split_ifs <;> rfl

theorem EntryOk.run_of_stage1_stops (entry : EntryOk cfg cap.length q) {e : ErrCode}
    (stops : Stage1Stops cfg zones cap.length (realSampleAt cap) e) : Arith.real.run cfg zones cap = .error e := by
  rw [entry.run_eq, Arith.fromEntry, entry.operandsOk.stage1_stops stops]
  rfl

/-! The stages before the loop. -/

/-- The stages of RUN before the loop have these values, by their formulas (R203 to R209). -/
structure StagesOk (cfg : CfgBank ℝ) (zones : List (ℝ × ℝ)) (cap : List (Cx ℝ)) (q : ℕ) (equi0 beat0 : ℝ)
    (obs0 obs1 : Option ℝ) (equi beat fBeat : ℝ) (st : ℕ) : Prop where
  entry : EntryOk cfg cap.length q
  stage1 : IsStage1 cfg zones cap.length (realSampleAt cap) equi0 beat0 obs0 obs1
  clock : IsClock cfg equi0 beat0 obs0 equi beat
  stage2 : IsStage2 cfg zones cap.length (realSampleAt cap) q equi beat fBeat st

/-- What the loop works on after these stages (R201, R210). -/
noncomputable def planAt (cfg : CfgBank ℝ) (zones : List (ℝ × ℝ)) (cap : List (Cx ℝ)) (q : ℕ) (equi fBeat : ℝ)
    (st : ℕ) : Plan ℝ where
  v := variantOf cfg.clockShared cfg.loShared
  cfg := cfg
  zones := zones
  x := Arith.real.fshift cap fBeat equi
  e := st + cfg.sequenceLength.toNat * q
  dataEnd := dataEndOf cfg cap.length (st + cfg.sequenceLength.toNat * q) equi
  equi := equi
  fBeat := fBeat
  sps := equi / cfg.symbolRate

/-- The end of the useful data by its formula (R210). -/
theorem Arith.real_dataEnd (cfg : CfgBank ℝ) (N e : ℕ) (equi : ℝ) :
    Arith.real.dataEnd cfg N e (equi / cfg.symbolRate) = dataEndOf cfg N e equi := by
  simp only [Arith.dataEnd, dataEndOf, Arith.real_rhd_toNat, Arith.real_mul, Arith.real_nat]

/-- What RUN computes from these stages and the frames of the loop (R219, R224 to R226). -/
noncomputable def outputAt (cfg : CfgBank ℝ) (cap : List (Cx ℝ)) (q : ℕ) (equi0 equi beat fBeat : ℝ)
    (obs0 obs1 : Option ℝ) (st : ℕ) (frames : List (Subframe ℝ)) : RunOut ℝ :=
  Arith.real.outputOf cfg cap.length (⟨equi, beat, obs0, obs1⟩,
      Arith.real.clockAborts (variantOf cfg.clockShared cfg.loShared) cfg equi0)
    (syncedAt cfg cap q equi fBeat st) frames

@[simp] theorem outputAt_dataEnd (frames : List (Subframe ℝ)) :
    (outputAt cfg cap q equi0 equi beat fBeat obs0 obs1 st frames).dataEnd
      = dataEndOf cfg cap.length (st + cfg.sequenceLength.toNat * q) equi := Arith.real_dataEnd cfg _ _ equi

/-- After the synchronisation the loop and the length check are left (R211 to R219). -/
theorem Arith.real_fromSync (aborted : Bool) :
    Arith.real.fromSync cfg zones cap.length (⟨equi, beat, obs0, obs1⟩, aborted) (syncedAt cfg cap q equi fBeat st)
      = Arith.real.subframes (planAt cfg zones cap q equi fBeat st) (subframeCount cfg) 0
          (st + cfg.sequenceLength.toNat * q) >>= fun frames =>
        (Arith.real.outputOf cfg cap.length (⟨equi, beat, obs0, obs1⟩, aborted) (syncedAt cfg cap q equi fBeat st)
          frames).checkLengths := by
  have plan : Arith.real.planOf cfg zones cap.length ⟨equi, beat, obs0, obs1⟩ (syncedAt cfg cap q equi fBeat st)
      = planAt cfg zones cap q equi fBeat st := by
    rw [Arith.planOf, Arith.real_div, Arith.real_dataEnd]
    rfl
  rw [Arith.fromSync, plan]
  rfl

/-- With these values RUN is its loop and the length check. -/
theorem StagesOk.run_eq (h : StagesOk cfg zones cap q equi0 beat0 obs0 obs1 equi beat fBeat st) :
    Arith.real.run cfg zones cap
      = Arith.real.subframes (planAt cfg zones cap q equi fBeat st) (subframeCount cfg) 0
          (st + cfg.sequenceLength.toNat * q) >>= fun frames =>
        (outputAt cfg cap q equi0 equi beat fBeat obs0 obs1 st frames).checkLengths := by
  obtain ⟨rate, positive, below⟩ := h.clock
  rw [h.entry.run_of_rate h.stage1 rate, if_neg positive.not_ge, if_neg below.not_ge, Arith.fromClock,
    h.stage2.stage2 h.entry]
  exact Arith.real_fromSync _

/-- The loop can begin: rate, cutoff and taps are in their ranges, and the useful data end within the capture. -/
theorem StagesOk.planReady (h : StagesOk cfg zones cap q equi0 beat0 obs0 obs1 equi beat fBeat st) :
    PlanReady (planAt cfg zones cap q equi fBeat st) := by
  obtain ⟨-, positive, below⟩ := h.clock
  obtain ⟨-, -, symbolRate, -, -, -, -, -, taps, cutoff, -⟩ := h.entry.operandsOk
  refine ⟨rfl, rfl, symbolRate, ⟨?_, positive, cutoff, below⟩, ?_⟩
  · exact Nat.one_le_iff_ne_zero.mp ((one_le_toNat_iff _).mpr taps)
  · exact (min_le_left _ _).trans_eq (Arith.fshift_length _ cap fBeat equi).symm

/-- The corrected capture by the formula (R208). -/
theorem planAt_x : realSampleAt (planAt cfg zones cap q equi fBeat st).x = shiftedBy (realSampleAt cap) fBeat equi :=
  realSampleAt_fshift cap fBeat equi

theorem planCount_eq_subframeCount {N : ℕ} (h : EntryOk cfg N q) : planCount cfg = subframeCount cfg :=
  planCount_eq h.operandsOk.planOk

/-- The sequence ends within the capture (41_sequence_sync.md R127). -/
theorem IsStage2.stop_le {N : ℕ} {x : ℤ → ℂ} (h : IsStage2 cfg zones N x q equi beat fBeat st) :
    st + cfg.sequenceLength.toNat * q ≤ N := by
  obtain ⟨st1, first, once, twice⟩ := h
  by_cases second : SecondPass cfg N (st1 + cfg.sequenceLength.toNat * q)
  · obtain ⟨-, -, -, -, sync⟩ := twice second
    exact sync.stop_le
  · obtain ⟨-, rfl⟩ := once second
    exact first.stop_le

/-! A RUN without an error. -/

/-- A RUN without an error has the values of the formulas at every stage, and has made the turns of its loop. -/
theorem exists_stagesOk {o : RunOut ℝ} (h : Arith.real.run cfg zones cap = .ok o) :
    ∃ q equi0 beat0 equi beat fBeat obs0 obs1 st frames,
      StagesOk cfg zones cap q equi0 beat0 obs0 obs1 equi beat fBeat st
      ∧ Arith.real.subframes (planAt cfg zones cap q equi fBeat st) (subframeCount cfg) 0
          (st + cfg.sequenceLength.toNat * q) = .ok frames
      ∧ o = outputAt cfg cap q equi0 equi beat fBeat obs0 obs1 st frames := by
  rw [Arith.run_eq_entry_bind] at h
  obtain ⟨q, entered, h⟩ := Except.bind_ok h
  have entry := entryOk_of_entry entered
  obtain ⟨⟨equi0, beat0, obs0, obs1⟩, estimated, -⟩ := Except.bind_ok h
  have stage1 := entry.operandsOk.stage1_ok_iff.mp estimated
  obtain ⟨equi, beat, rate⟩ := exists_isRate (cfg := cfg) stage1.observed equi0 beat0
  rw [← entry.run_eq, entry.run_of_rate stage1 rate] at h
  split at h
  · cases h
  next positive =>
    split at h
    · cases h
    next below =>
      obtain ⟨sy, synced, h⟩ := Except.bind_ok h
      obtain ⟨fBeat, st, rfl, stage2⟩ := isStage2_of_stage2 entry synced
      rw [Arith.real_fromSync] at h
      obtain ⟨frames, looped, checked⟩ := Except.bind_ok h
      obtain ⟨rfl, -⟩ := RunOut.checkLengths_ok checked
      exact ⟨q, equi0, beat0, equi, beat, fBeat, obs0, obs1, st, frames,
        ⟨entry, stage1, ⟨rate, not_le.mp positive, not_le.mp below⟩, stage2⟩, looped, rfl⟩

/-- Settles O42: the stages before the loop of a RUN without an error. -/
theorem runStages : Obligations.RunStages := by
  intro cfg zones cap o ran
  obtain ⟨q, equi0, beat0, equi, beat, fBeat, obs0, obs1, st, frames, stages, -, rfl⟩ := exists_stagesOk ran
  exact ⟨q, equi0, beat0, beat, stages.entry, stages.stage1, clockAborts_iff, stages.clock, stages.stage2, rfl,
    stages.stage2.stop_le, outputAt_dataEnd frames⟩

/-- Settles O43: the turns of the loop of a RUN without an error, each by its formulas. -/
theorem runSubframes : Obligations.RunSubframes := by
  intro cfg zones cap o ran
  obtain ⟨q, equi0, beat0, equi, beat, fBeat, obs0, obs1, st, frames, stages, looped, rfl⟩ := exists_stagesOk ran
  refine ⟨?_, ?_⟩
  · rw [planCount_eq_subframeCount stages.entry]
    exact Arith.real.subframes_length _ _ _ _ _ looped
  · obtain ⟨cursor, start, turns⟩ := Arith.turns_of_subframes looped
    refine ⟨cursor, start, fun j f hf => ?_⟩
    have delivers := stages.planReady.subframe_ok_iff.mp (turns j f hf)
    rw [zero_add, Plan.Delivers, planAt_x] at delivers
    rwa [outputAt_dataEnd]

/-! A RUN with an error. -/

theorem EntryOk.run_of_stage2_stops (entry : EntryOk cfg cap.length q)
    (stage1 : IsStage1 cfg zones cap.length (realSampleAt cap) equi0 beat0 obs0 obs1)
    (clock : IsClock cfg equi0 beat0 obs0 equi beat)
    (stops : Stage2Stops cfg zones cap.length (realSampleAt cap) q equi beat) :
    Arith.real.run cfg zones cap = .error .errArg := by
  obtain ⟨rate, positive, below⟩ := clock
  rw [entry.run_of_rate stage1 rate, if_neg positive.not_ge, if_neg below.not_ge, Arith.fromClock, stops.stage2 entry]
  rfl

/-- Frames that the formulas give are what the turns of the loop answer. -/
theorem PlanReady.turns_of_delivers {P : Plan ℝ} (ready : PlanReady P) {cursor : ℕ → ℕ} {frames : List (Subframe ℝ)}
    (h : ∀ (j : ℕ) (f : Subframe ℝ), frames[j]? = some f → P.Delivers j (cursor j) (cursor (j + 1)) f) :
    Turns Arith.real P 0 cursor frames := fun j f hf => by
  rw [zero_add]
  exact ready.subframe_ok_iff.mpr (h j f hf)

/-- The lengths of the concatenations (R219). -/
theorem RunOut.length_symbols {R : Type} (o : RunOut R) : o.symbols.length = (o.frames.map fun f => f.z.length).sum :=
  List.length_flatMap

theorem RunOut.length_preSymbols {R : Type} (o : RunOut R) :
    o.preSymbols.length = (o.frames.map fun f => f.y.length).sum := List.length_flatMap

theorem RunOut.length_tones {R : Type} (o : RunOut R) : o.tones.length = (o.frames.map fun f => f.t.length).sum :=
  List.length_flatMap

/-- A concatenation that does not fit (R219). -/
theorem RunOut.checkLengths_error {R : Type} {o : RunOut R}
    (h : Config.bufMax < (o.frames.map fun f => f.y.length).sum ∨ Config.bufMax < (o.frames.map fun f => f.t.length).sum) :
    o.checkLengths = .error .errRange := by
  rw [← RunOut.length_preSymbols, ← RunOut.length_tones] at h
  refine if_pos ?_
  simp only [Bool.or_eq_true, decide_eq_true_eq]
  tauto

section stops

variable (h : StagesOk cfg zones cap q equi0 beat0 obs0 obs1 equi beat fBeat st) {cursor : ℕ → ℕ}
  {frames : List (Subframe ℝ)}
include h

/-- A turn of the loop that fails ends RUN (R214, R215). -/
theorem StagesOk.run_of_subframe_stops {e : ErrCode}
    (turns : Turns Arith.real (planAt cfg zones cap q equi fBeat st) 0 cursor frames)
    (start : cursor 0 = st + cfg.sequenceLength.toNat * q) (more : frames.length < planCount cfg)
    (stops : SubframeStops cfg zones (shiftedBy (realSampleAt cap) fBeat equi) (st + cfg.sequenceLength.toNat * q)
      (dataEndOf cfg cap.length (st + cfg.sequenceLength.toNat * q) equi) equi frames.length (cursor frames.length) e) :
    Arith.real.run cfg zones cap = .error e := by
  rw [← planAt_x (zones := zones) (q := q) (st := st)] at stops
  rw [planCount_eq_subframeCount h.entry] at more
  rw [h.run_eq, ← start, turns.subframes_error more (by rw [zero_add]; exact h.planReady.subframe_stops stops)]
  rfl

/-- A loop without an error leaves the length check (R219). -/
theorem StagesOk.run_of_turns (turns : Turns Arith.real (planAt cfg zones cap q equi fBeat st) 0 cursor frames)
    (start : cursor 0 = st + cfg.sequenceLength.toNat * q) (all : frames.length = planCount cfg) :
    Arith.real.run cfg zones cap
      = (outputAt cfg cap q equi0 equi beat fBeat obs0 obs1 st frames).checkLengths := by
  rw [h.run_eq, ← start, ← planCount_eq_subframeCount h.entry, ← all, turns.subframes]
  rfl

end stops

/-- Settles O45: each stage over the exact reals, after the values of the stages before it. -/
theorem runStops : Obligations.RunStops := by
  intro s q
  simp only [← realSampleAt_valuesOf, ← valuesOf_length (s.buf BufId.cap)]
  intro entry
  refine ⟨fun e stops => exec_run_of_real_error (entry.run_of_stage1_stops stops), ?_⟩
  intro equi0 beat0 equi beat obs0 obs1 stage1 rate
  have checks := entry.run_of_rate stage1 rate
  refine ⟨fun low => exec_run_of_real_error (checks.trans (if_pos low)), fun positive high =>
    exec_run_of_real_error (checks.trans ((if_neg positive.not_ge).trans (if_pos high))), fun positive below => ?_⟩
  have clock : IsClock s.cfg.toReal equi0 beat0 obs0 equi beat := ⟨rate, positive, below⟩
  refine ⟨fun stops => exec_run_of_real_error (entry.run_of_stage2_stops stage1 clock stops), ?_⟩
  intro fBeat st stage2 cursor frames start values
  have stages : StagesOk _ _ _ q equi0 beat0 obs0 obs1 equi beat fBeat st := ⟨entry, stage1, clock, stage2⟩
  have turns := stages.planReady.turns_of_delivers (cursor := cursor) (frames := frames) fun j f hf => by
    rw [Plan.Delivers, planAt_x]
    exact values j f hf
  refine ⟨fun e more stops => exec_run_of_real_error (stages.run_of_subframe_stops turns start more stops),
    fun all long => exec_run_of_real_error ?_⟩
  rw [stages.run_of_turns turns start all]
  exact RunOut.checkLengths_error long

end Sys2Proof.Machine
end

section
/-! A RUN that completes (45_pipeline.md R200, R213, R214, R219, R221): pilots that can be tracked in every window that
occurs let the loop succeed, and the lengths of its windows bound what it concatenates. -/

namespace Sys2Proof.Machine

/-! How many samples the resampler takes, and where it stops (40_resampler.md R102). -/

section resampler

variable {N p : ℕ} {f : ℝ}

/-- At most one sample for every sampling interval that begins in the sequence. -/
theorem real_downsampleLen_le_ceil (hf : 0 < f) : Arith.real.downsampleLen N p f ≤ ⌈N / f⌉₊ := by
  refine le_of_forall_lt fun k hk => ?_
  have position := posOf_lt_iff.mp ((Arith.lt_real_downsampleLen_iff hf).mp hk)
  have offset : (0 : ℝ) ≤ p := Nat.cast_nonneg p
  rw [Nat.lt_ceil, lt_div_iff₀ hf]
  linarith

/-- At most one sample more than sampling intervals fit in the sequence. -/
theorem real_downsampleLen_le_floor (hf : 0 < f) : Arith.real.downsampleLen N p f ≤ ⌊N / f⌋₊ + 1 := by
  refine le_of_forall_lt fun k hk => Nat.lt_succ_of_le (Nat.le_floor ?_)
  have position := posOf_lt_iff.mp ((Arith.lt_real_downsampleLen_iff hf).mp hk)
  have offset : (0 : ℝ) ≤ p := Nat.cast_nonneg p
  rw [le_div_iff₀ hf]
  linarith

/-- The position after the last sample lies behind the sequence (R221). -/
theorem le_position_behind (hf : 0 < f) (hN : 1 ≤ N) (b : ℕ) :
    b + N ≤ ⌈((b + p : ℕ) : ℝ) + Arith.real.downsampleLen N p f * f - 1 / 2⌉₊ := by
  have notTaken := mt (Arith.lt_real_downsampleLen_iff (N := N) (start := p) hf).mpr (lt_irrefl _)
  rw [posOf_lt_iff, not_le] at notTaken
  have last : b + (N - 1) < ⌈((b + p : ℕ) : ℝ) + Arith.real.downsampleLen N p f * f - 1 / 2⌉₊ := by
    rw [Nat.lt_ceil, Nat.cast_add, Nat.cast_sub hN, Nat.cast_add, Nat.cast_one]
    linarith
  omega

end resampler

/-! One turn of the loop. -/

variable {cfg : CfgBank ℝ} {zones : List (ℝ × ℝ)} {equi : ℝ}

/-- In a window where a pilot can be tracked, one is (R143, R145, R214). -/
theorem Trackable.exists_isTracked {w : List (Cx ℝ)} (h : Trackable cfg zones equi w.length) :
    ∃ fp beat, IsTracked cfg zones equi w.length (realSampleAt w) fp beat := by
  obtain ⟨some, guarded⟩ := h
  obtain ⟨f, -, pilot⟩ := Arith.real_find1_some some
  have ⟨ka, admitted, _, hf⟩ := pilot
  unfold IsTracked
  cases clock : cfg.clockShared <;> cases lo : cfg.loShared
  case false.false =>
    obtain ⟨g, -, second⟩ := Arith.real_find1_some (x := w) (guarded clock lo ka admitted)
    rw [← hf] at second
    exact ⟨_, _, ⟨_, f, g, pilot, second, rfl, rfl⟩, rfl⟩
  all_goals exact ⟨f, _, pilot, rfl⟩

variable {P : Plan ℝ} {j b hi cursor : ℕ}

/-- What a turn of the loop leaves of a window: the lengths of its results and the next cursor (R213, R217, R221). -/
structure Plan.Turned (P : Plan ℝ) (b hi cursor next : ℕ) (f : Subframe ℝ) : Prop where
  symbols : f.z.length = f.y.length
  short : hi - b < 3 → f.t.length = 0 ∧ f.y.length = 0 ∧ next = cursor
  long : 3 ≤ hi - b → f.t.length = hi - b
    ∧ ∃ p, f.y.length = Arith.real.downsampleLen (hi - b) p (P.equi / P.cfg.symbolRate)
      ∧ next = if P.cfg.clockShared then cursor
        else ⌈((b + p : ℕ) : ℝ) + f.y.length * (P.equi / P.cfg.symbolRate) - 1 / 2⌉₊

theorem PlanReady.turned_of_delivers (ready : PlanReady P) (window : P.windowAt j cursor = (b, hi)) {next : ℕ}
    {f : Subframe ℝ} (h : P.Delivers j cursor next f) : P.Turned b hi cursor next f := by
  rcases lt_or_ge (hi - b) 3 with short | long
  · obtain ⟨rfl, rfl⟩ := (Plan.delivers_iff_of_short window short).mp h
    exact ⟨rfl, fun _ => ⟨rfl, rfl, rfl⟩, fun long => absurd short long.not_gt⟩
  · obtain ⟨fp, beat, p, -, chain, -, rfl⟩ := (Plan.delivers_iff_of_long window long).mp h
    obtain ⟨-, tones, -, -, raw, -, symbols, -⟩ := chain
    rw [card_positionsOf ready.sps_pos] at raw
    exact ⟨symbols, fun short => absurd long short.not_ge, fun _ => ⟨tones, p, raw, rfl⟩⟩

/-- A turn of the loop answers when its window can be tracked and the taps do not sum to 0. -/
theorem PlanReady.exists_turn (ready : PlanReady P) (window : P.windowAt j cursor = (b, hi))
    (trackable : 3 ≤ hi - b → Trackable P.cfg P.zones P.equi (hi - b))
    (hS : 3 ≤ hi - b → designSum P.cfg.firSize.toNat P.cfg.toneCutoff P.equi ≠ 0) :
    ∃ f next, Arith.real.subframe P j cursor = .ok (f, next) ∧ P.Turned b hi cursor next f := by
  suffices answers : ∃ f next, Arith.real.subframe P j cursor = .ok (f, next) by
    obtain ⟨f, next, answer⟩ := answers
    exact ⟨f, next, answer, ready.turned_of_delivers window (ready.delivers_of_subframe answer)⟩
  rcases lt_or_ge (hi - b) 3 with short | long
  · exact ⟨_, _, ready.subframe_short window short⟩
  · have length := slice_length_of_le (ready.window_fits window) (lo := b)
    obtain ⟨fp, beat, tracked⟩ := Trackable.exists_isTracked (w := slice P.x b hi) (length ▸ trackable long)
    obtain ⟨f, next, answer, -⟩ := ready.subframe_tracked window long (ready.track_ok_iff.mpr tracked) (hS long)
    exact ⟨f, next, answer⟩

/-! The loop with bounds on its results. -/

/-- A loop of `n` turns from `cursor` on answers, with at most `tones` and `symbols` elements in all. -/
structure LoopFits {R : Type} (A : Arith R) (P : Plan R) (n j cursor tones symbols : ℕ) (frames : List (Subframe R)) :
    Prop where
  answers : A.subframes P n j cursor = .ok frames
  same : (frames.map fun f => f.z.length).sum = (frames.map fun f => f.y.length).sum
  tones : (frames.map fun f => f.t.length).sum ≤ tones
  symbols : (frames.map fun f => f.y.length).sum ≤ symbols

/-- A loop answers when its turns do, under an invariant of the sample cursor; bounds on the results that are still to
come, which every turn uses up by its own results, bound the results in all. -/
theorem Arith.exists_loopFits {R : Type} {A : Arith R} {P : Plan R} {J : ℕ} {Inv : ℕ → ℕ → Prop} {T Y : ℕ → ℕ → ℕ}
    (turn : ∀ j cursor, j < J → Inv j cursor → ∃ f next, A.subframe P j cursor = .ok (f, next) ∧ Inv (j + 1) next
      ∧ f.z.length = f.y.length ∧ f.t.length + T (j + 1) next ≤ T j cursor
      ∧ f.y.length + Y (j + 1) next ≤ Y j cursor)
    {n j cursor : ℕ} (hJ : j + n = J) (inv : Inv j cursor) :
    ∃ frames, LoopFits A P n j cursor (T j cursor) (Y j cursor) frames := by
  induction n generalizing j cursor with
  | zero => exact ⟨[], rfl, rfl, Nat.zero_le _, Nat.zero_le _⟩
  | succ n ih =>
    obtain ⟨f, next, answer, inv', same, tones, symbols⟩ := turn j cursor (by omega) inv
    obtain ⟨rest, later⟩ := ih (by omega) inv'
    refine ⟨f :: rest, ?_, ?_, ?_, ?_⟩
    · rw [Arith.subframes_succ, answer]
      dsimp only [bind, Except.bind]
      rw [later.answers]
    · simp only [List.map_cons, List.sum_cons, same, later.same]
    · rw [List.map_cons, List.sum_cons]
      exact (Nat.add_le_add_left later.tones _).trans tones
    · rw [List.map_cons, List.sum_cons]
      exact (Nat.add_le_add_left later.symbols _).trans symbols

/-! Windows known a priori (SS, SU). -/

/-- With a shared clock the window does not depend on the sample cursor (R213). -/
theorem windowOf_of_shared (shared : cfg.clockShared = true) (e dataEnd j cursor cursor' : ℕ) :
    windowOf cfg e dataEnd equi j cursor = windowOf cfg e dataEnd equi j cursor' := by
  simp only [windowOf, shared, if_true]

/-- A window lies within the useful data, when the sample cursor does not lie before them (R210, R213). -/
theorem le_windowOf_fst {e dataEnd : ℕ} (he : e ≤ dataEnd) (after : cfg.clockShared = false → e ≤ cursor) :
    e ≤ (windowOf cfg e dataEnd equi j cursor).1 := by
  unfold windowOf
  dsimp only
  cases shared : cfg.clockShared with
  | true => exact le_min (Nat.le_add_right _ _) he
  | false => exact le_min (after shared) he

/-- The loop of SS and SU: the tones and symbols of a window are bounded by its own length. -/
theorem PlanReady.exists_loop_shared (ready : PlanReady P) (shared : P.cfg.clockShared = true) (he : P.e ≤ P.dataEnd)
    (hS : 3 ≤ P.dataEnd - P.e → designSum P.cfg.firSize.toNat P.cfg.toneCutoff P.equi ≠ 0) {J : ℕ}
    (trackable : ∀ j < J, 3 ≤ aPrioriSpan P.cfg P.e P.dataEnd P.equi j →
      Trackable P.cfg P.zones P.equi (aPrioriSpan P.cfg P.e P.dataEnd P.equi j)) :
    ∃ frames, LoopFits Arith.real P J 0 P.e
      (∑ j ∈ Finset.range J, aPrioriSpan P.cfg P.e P.dataEnd P.equi j)
      (∑ j ∈ Finset.range J, ⌈aPrioriSpan P.cfg P.e P.dataEnd P.equi j / (P.equi / P.cfg.symbolRate)⌉₊) frames := by
  simp only [Finset.range_eq_Ico]
  refine Arith.exists_loopFits (Inv := fun _ _ => True)
    (T := fun j _ => ∑ i ∈ Finset.Ico j J, aPrioriSpan P.cfg P.e P.dataEnd P.equi i)
    (Y := fun j _ => ∑ i ∈ Finset.Ico j J, ⌈aPrioriSpan P.cfg P.e P.dataEnd P.equi i / (P.equi / P.cfg.symbolRate)⌉₊)
    (fun j cursor hj _ => ?_) (Nat.zero_add J) trivial
  obtain ⟨b, hi, window⟩ : ∃ b hi, P.windowAt j cursor = (b, hi) := ⟨_, _, rfl⟩
  have first : P.e ≤ b := by
    have bound := le_windowOf_fst (cfg := P.cfg) (equi := P.equi) (j := j) (cursor := cursor) he (by simp [shared])
    rwa [← Plan.windowAt, window] at bound
  have last : hi ≤ P.dataEnd := by
    have bound := windowOf_snd_le P.cfg P.e P.dataEnd P.equi j cursor
    rwa [← Plan.windowAt, window] at bound
  have span : aPrioriSpan P.cfg P.e P.dataEnd P.equi j = if hi - b < 3 then 0 else hi - b := by
    rw [aPrioriSpan, windowOf_of_shared shared _ _ _ _ cursor, ← Plan.windowAt, window]
  have spanLong (long : 3 ≤ hi - b) : aPrioriSpan P.cfg P.e P.dataEnd P.equi j = hi - b :=
    span.trans (if_neg long.not_gt)
  obtain ⟨f, next, answer, turned⟩ := ready.exists_turn window
    (fun long => by
      have value := trackable j hj
      rw [spanLong long] at value
      exact value long) fun long => hS (by omega)
  refine ⟨f, next, answer, trivial, turned.symbols, ?_, ?_⟩ <;> rw [Finset.sum_eq_sum_Ico_succ_bot hj] <;>
    refine Nat.add_le_add_right ?_ _
  · rcases lt_or_ge (hi - b) 3 with short | long
    · rw [(turned.short short).1]
      exact Nat.zero_le _
    · rw [(turned.long long).1, spanLong long]
  · rcases lt_or_ge (hi - b) 3 with short | long
    · rw [(turned.short short).2.1]
      exact Nat.zero_le _
    · obtain ⟨-, p, count, -⟩ := turned.long long
      rw [count, spanLong long]
      exact real_downsampleLen_le_ceil ready.sps_pos

end Sys2Proof.Machine
end

section
/-! The completion of RUN (45_pipeline.md R200, R219, R221, R222, R224): the loop with windows from actual
timing, and RUN as a command. -/

namespace Sys2Proof.Machine

variable {P : Plan ℝ} {cfg : CfgBank ℝ} {zones : List (ℝ × ℝ)} {equi : ℝ}

/-! Windows from actual timing (US, UU). -/

/-- With a clock of its own a window begins at the sample cursor, within the useful data (R213). -/
theorem windowOf_of_unshared (unshared : cfg.clockShared = false) (e dataEnd j cursor : ℕ) :
    windowOf cfg e dataEnd equi j cursor = (min cursor dataEnd,
      min dataEnd (min cursor dataEnd + ⌈allotted cfg j * (equi / cfg.symbolRate) - 1 / 2⌉₊)) := by
  rw [windowOf, unshared]
  rfl

/-- A subframe that is the only one is allotted all symbols (R211, R212). -/
theorem allotted_of_one (plan : PlanOk cfg) (one : subframeCount cfg ≤ 1) :
    allotted cfg 0 = cfg.numSymbols.toNat := by
  have room := (subframeCount_le_iff plan).mp one
  unfold allotted
  omega

/-- With one subframe, its window is all of the useful data (R210 to R213). -/
theorem windowOf_of_one {N e : ℕ} (plan : PlanOk cfg) (one : subframeCount cfg ≤ 1)
    (unshared : cfg.clockShared = false) (he : e ≤ dataEndOf cfg N e equi) :
    windowOf cfg e (dataEndOf cfg N e equi) equi 0 e = (e, dataEndOf cfg N e equi) := by
  rw [windowOf_of_unshared unshared, allotted_of_one plan one, min_eq_left he]
  exact Prod.ext rfl (min_eq_left (min_le_right _ _))

/-- A window that is processed uses up its samples: those behind it keep what is left of the two bounds on the symbols,
the sampling intervals and the windows of 3 samples. -/
theorem symbols_left {f : ℝ} (hf : 0 < f) {m left D k : ℕ} (long : 3 ≤ m) (room : m + left ≤ D) :
    ⌊m / f⌋₊ + 1 + (⌊left / f⌋₊ + min k (left / 3)) ≤ ⌊D / f⌋₊ + min (k + 1) (D / 3) := by
  have intervals : ⌊(m : ℝ) / f⌋₊ + ⌊(left : ℝ) / f⌋₊ ≤ ⌊(D : ℝ) / f⌋₊ := by
    refine Nat.le_floor ?_
    calc ((⌊(m : ℝ) / f⌋₊ + ⌊(left : ℝ) / f⌋₊ : ℕ) : ℝ)
      _ ≤ m / f + left / f := by
        rw [Nat.cast_add]
        exact add_le_add (Nat.floor_le (by positivity)) (Nat.floor_le (by positivity))
      _ = (m + left : ℕ) / f := by rw [Nat.cast_add, add_div]
      _ ≤ D / f := by gcongr
  omega

/-- The loop of US and UU: windows do not overlap, so that the tones fit in the useful data. -/
theorem PlanReady.exists_loop_unshared (ready : PlanReady P) (unshared : P.cfg.clockShared = false)
    (hS : 3 ≤ P.dataEnd - P.e → designSum P.cfg.firSize.toNat P.cfg.toneCutoff P.equi ≠ 0) {J : ℕ}
    (one : J ≤ 1 → P.windowAt 0 P.e = (P.e, P.dataEnd))
    (trackable : ∀ m : ℕ, 3 ≤ m → m ≤ P.dataEnd - P.e → (m = P.dataEnd - P.e ∨ 1 < J) →
      Trackable P.cfg P.zones P.equi m) :
    ∃ frames, LoopFits Arith.real P J 0 P.e (P.dataEnd - P.e)
      (⌊((P.dataEnd - P.e : ℕ) : ℝ) / (P.equi / P.cfg.symbolRate)⌋₊ + min J ((P.dataEnd - P.e) / 3)) frames := by
  refine Arith.exists_loopFits (Inv := fun j cursor => P.e ≤ cursor ∧ (j = 0 → cursor = P.e))
    (T := fun _ cursor => P.dataEnd - cursor)
    (Y := fun j cursor => ⌊((P.dataEnd - cursor : ℕ) : ℝ) / (P.equi / P.cfg.symbolRate)⌋₊
      + min (J - j) ((P.dataEnd - cursor) / 3))
    (fun j cursor hj ⟨after, start⟩ => ?_) (Nat.zero_add J) ⟨le_rfl, fun _ => rfl⟩
  obtain ⟨b, hi, window⟩ : ∃ b hi, P.windowAt j cursor = (b, hi) := ⟨_, _, rfl⟩
  have first : b = min cursor P.dataEnd := by
    have start := windowOf_of_unshared (equi := P.equi) unshared P.e P.dataEnd j cursor
    rw [← Plan.windowAt, window] at start
    exact congrArg Prod.fst start
  have last : hi ≤ P.dataEnd := by
    have bound := windowOf_snd_le P.cfg P.e P.dataEnd P.equi j cursor
    rwa [← Plan.windowAt, window] at bound
  obtain ⟨f, next, answer, turned⟩ := ready.exists_turn window
    (fun long => trackable _ long (by omega) (by
      rcases Nat.lt_or_ge 1 J with many | few
      · exact .inr many
      · obtain rfl : j = 0 := by omega
        rw [start rfl, one few] at window
        cases window
        exact .inl rfl))
    fun long => hS (by omega)
  rcases lt_or_ge (hi - b) 3 with short | long
  · obtain ⟨tones, symbols, rfl⟩ := turned.short short
    refine ⟨f, next, answer, ⟨after, by omega⟩, turned.symbols, by omega, ?_⟩
    rw [symbols]
    omega
  · obtain ⟨tones, p, count, goes⟩ := turned.long long
    have behind : hi ≤ next := by
      rw [goes, unshared, count, if_neg Bool.false_ne_true]
      refine le_trans ?_ (le_position_behind ready.sps_pos (by omega) b)
      omega
    refine ⟨f, next, answer, ⟨by omega, by omega⟩, turned.symbols, by omega, ?_⟩
    have bound := real_downsampleLen_le_floor (N := hi - b) (p := p) ready.sps_pos
    rw [← count] at bound
    have left := symbols_left (m := hi - b) (left := P.dataEnd - next) (D := P.dataEnd - cursor) (k := J - (j + 1))
      ready.sps_pos long (by omega)
    have turns : J - (j + 1) + 1 = J - j := by omega
    rw [turns] at left
    omega

/-! RUN. -/

section completes

variable {cap : List (Cx ℝ)} {q st : ℕ} {equi0 beat0 beat fBeat : ℝ} {obs0 obs1 : Option ℝ}

/-- Concatenations that fit pass the length check (R219). -/
theorem RunOut.checkLengths_of_fits {R : Type} {o : RunOut R} {A : Arith R} {P : Plan R} {n j cursor tones symbols : ℕ}
    (fits : LoopFits A P n j cursor tones symbols o.frames) (ht : tones ≤ Config.bufMax)
    (hs : symbols ≤ Config.bufMax) : o.checkLengths = .ok o := by
  have y := o.length_preSymbols.trans_le (fits.symbols.trans hs)
  have z := (o.length_symbols.trans fits.same).trans_le (fits.symbols.trans hs)
  have t := o.length_tones.trans_le (fits.tones.trans ht)
  refine if_neg ?_
  simp only [Bool.or_eq_true, decide_eq_true_eq]
  omega

/-- RUN over the exact reals answers when its loop does and its concatenations fit. -/
theorem StagesOk.run_of_fits (h : StagesOk cfg zones cap q equi0 beat0 obs0 obs1 equi beat fBeat st)
    {tones symbols : ℕ} {frames : List (Subframe ℝ)}
    (fits : LoopFits Arith.real (planAt cfg zones cap q equi fBeat st) (planCount cfg) 0
      (st + cfg.sequenceLength.toNat * q) tones symbols frames)
    (ht : tones ≤ Config.bufMax) (hs : symbols ≤ Config.bufMax) :
    Arith.real.run cfg zones cap = .ok (outputAt cfg cap q equi0 equi beat fBeat obs0 obs1 st frames) := by
  rw [h.run_eq, ← planCount_eq_subframeCount h.entry, fits.answers]
  exact RunOut.checkLengths_of_fits (o := outputAt cfg cap q equi0 equi beat fBeat obs0 obs1 st frames) fits ht hs

/-- The useful data begin at the end of the sequence (R210). -/
theorem StagesOk.le_dataEnd (h : StagesOk cfg zones cap q equi0 beat0 obs0 obs1 equi beat fBeat st) :
    (planAt cfg zones cap q equi fBeat st).e ≤ (planAt cfg zones cap q equi fBeat st).dataEnd :=
  le_min h.stage2.stop_le (Nat.le_add_right _ _)

theorem StagesOk.exists_run_shared (h : StagesOk cfg zones cap q equi0 beat0 obs0 obs1 equi beat fBeat st)
    (shared : cfg.clockShared = true) {e : ℕ} (he : e = st + cfg.sequenceLength.toNat * q)
    (hS : 3 ≤ dataEndOf cfg cap.length e equi - e → designSum cfg.firSize.toNat cfg.toneCutoff equi ≠ 0)
    {span : ℕ → ℕ} (hspan : span = aPrioriSpan cfg e (dataEndOf cfg cap.length e equi) equi)
    (trackable : ∀ j : ℕ, j < planCount cfg → 3 ≤ span j → Trackable cfg zones equi (span j))
    (tones : ∑ j ∈ Finset.range (planCount cfg), span j ≤ Config.bufMax)
    (symbols : ∑ j ∈ Finset.range (planCount cfg), ⌈span j / (equi / cfg.symbolRate)⌉₊ ≤ Config.bufMax) :
    ∃ frames, frames.length = planCount cfg
      ∧ Arith.real.run cfg zones cap = .ok (outputAt cfg cap q equi0 equi beat fBeat obs0 obs1 st frames) := by
  subst he hspan
  obtain ⟨frames, fits⟩ := h.planReady.exists_loop_shared shared h.le_dataEnd hS trackable
  exact ⟨frames, Arith.real.subframes_length _ _ _ _ _ fits.answers, h.run_of_fits fits tones symbols⟩

theorem StagesOk.exists_run_unshared (h : StagesOk cfg zones cap q equi0 beat0 obs0 obs1 equi beat fBeat st)
    (unshared : cfg.clockShared = false) (capture : cap.length ≤ Config.bufMax) {e D : ℕ}
    (he : e = st + cfg.sequenceLength.toNat * q) (hD : D = dataEndOf cfg cap.length e equi - e)
    (hS : 3 ≤ D → designSum cfg.firSize.toNat cfg.toneCutoff equi ≠ 0)
    (trackable : ∀ m : ℕ, 3 ≤ m → m ≤ D → (m = D ∨ 1 < planCount cfg) → Trackable cfg zones equi m)
    (symbols : ⌊D / (equi / cfg.symbolRate)⌋₊ + min (planCount cfg) (D / 3) ≤ Config.bufMax) :
    ∃ frames, frames.length = planCount cfg
      ∧ Arith.real.run cfg zones cap = .ok (outputAt cfg cap q equi0 equi beat fBeat obs0 obs1 st frames) := by
  subst he hD
  have one (few : planCount cfg ≤ 1) := windowOf_of_one h.entry.operandsOk.planOk
    (planCount_eq_subframeCount h.entry ▸ few) unshared h.le_dataEnd
  obtain ⟨frames, fits⟩ := h.planReady.exists_loop_unshared unshared hS one trackable
  have tones : dataEndOf cfg cap.length (st + cfg.sequenceLength.toNat * q) equi ≤ Config.bufMax :=
    (min_le_left _ _).trans capture
  exact ⟨frames, Arith.real.subframes_length _ _ _ _ _ fits.answers,
    h.run_of_fits fits ((Nat.sub_le _ _).trans tones) symbols⟩

end completes

/-- What a RUN that succeeds over the exact reals leaves (R219, R222, R224). -/
theorem exec_run_of_real_ok {s : State} {o : RunOut ℝ}
    (h : Arith.real.run s.cfg.toReal (zoneValues s.zones) (valuesOf (s.buf BufId.cap)) = .ok o) :
    ∃ t : State, exec .run s = .next t ∧ t.status.done = true ∧ t.status.err = s.status.err
      ∧ t.errCode = 0#32 ∧ t.status.resultValid = true ∧ t.status.snapValid = true
      ∧ t.status.clockAborted = o.aborted ∧ t.sfCount = BitVec.ofNat 32 o.frames.length
      ∧ t.snap.symbolRate = s.cfg.symbolRate ∧ t.snap.equiRate.toReal = o.equi ∧ t.snap.rollOff = s.cfg.rollOff
      ∧ t.snap.schema = s.cfg.detectionSchema := by
  obtain ⟨o', ran, rfl⟩ := Except.exists_ok_of_map ((numArith_run s.cfg s.zones (s.buf BufId.cap)).trans h)
  obtain ⟨status, sfCount, -, snap, -⟩ := s.writeRun_fields o'
  have frames : o'.toReal.frames.length = o'.frames.length := List.length_map _
  refine ⟨_, exec_run_of_ok ran, ?_⟩
  rw [State.succeed_status, State.succeed_sfCount, State.succeed_snap, status, sfCount, snap, frames]
  exact ⟨rfl, rfl, rfl, rfl, rfl, rfl, rfl, rfl, rfl, rfl, rfl⟩

/-- Settles O44: with either kind of window the loop answers within its bounds. -/
theorem runCompletes : Obligations.RunCompletes := by
  intro s q st equi0 beat0 equi beat fBeat obs0 obs1
  simp only [← realSampleAt_valuesOf, ← valuesOf_length (s.buf BufId.cap)]
  intro entry stage1 clock stage2 hS capture shared unshared
  have stages : StagesOk _ _ _ q equi0 beat0 obs0 obs1 equi beat fBeat st := ⟨entry, stage1, clock, stage2⟩
  have answers : ∃ frames : List (Subframe ℝ), frames.length = planCount s.cfg.toReal
      ∧ Arith.real.run s.cfg.toReal (zoneValues s.zones) (valuesOf (s.buf BufId.cap))
        = .ok (outputAt s.cfg.toReal (valuesOf (s.buf BufId.cap)) q equi0 equi beat fBeat obs0 obs1 st frames) := by
    cases clockShared : s.cfg.toReal.clockShared with
    | true =>
      obtain ⟨trackable, tones, symbols⟩ := shared clockShared
      exact stages.exists_run_shared clockShared rfl hS rfl trackable tones symbols
    | false =>
      obtain ⟨trackable, symbols⟩ := unshared clockShared
      exact stages.exists_run_unshared clockShared capture rfl rfl hS trackable symbols
  obtain ⟨frames, count, ran⟩ := answers
  obtain ⟨t, completed, done, err, code, result, snapshot, aborted, sfCount, symbolRate, equiRate, rollOff, schema⟩ :=
    exec_run_of_real_ok ran
  obtain ⟨noSchema, -⟩ := entry
  refine ⟨t, completed, done, err, code, result, snapshot, ?_, ?_, symbolRate, equiRate, rollOff,
    schema.trans noSchema⟩
  · rw [aborted]
    exact clockAborts_iff
  · rw [sfCount]
    exact congrArg _ count

end Sys2Proof.Machine
end

section
/-! Failure (60_exceptions.md R280, R284), and how long its sticky record lasts (R285, 10_state.md R23). -/

namespace Sys2Proof.Machine

variable {i : Instr} {s t : State}

/-- Settles O15: what ends with ERR is the failure update, since a success keeps the ERR that the launch cleared. -/
theorem failureUpdate : Obligations.FailureUpdate := by
  refine ⟨fun _ _ => rfl, fun i s t busy noErr noDone hx failed => ?_, fun e => by cases e <;> rfl⟩
  obtain ⟨-, rfl⟩ | ⟨-, e, rfl⟩ | ⟨-, u, written, rfl⟩ := exec_cases hx
  · cases failed
  · exact ⟨noDone, e, s.fail_eq_failedWith e⟩
  · have kept : u.status.err = true := failed
    rw [written.err_eq, noErr] at kept
    cases kept

/-! ERR_STICKY under what the host can do. -/

theorem State.launch_errSticky (s : State) (w : Word) : (s.launch w).status.errSticky = s.status.errSticky := by
  obtain ⟨-, h⟩ | ⟨-, h⟩ | ⟨-, -, h⟩ := s.launch_cases w <;> exact congrArg (·.status.errSticky) h

theorem State.writeLen_errSticky (s : State) (b : BufId) (w : Word) :
    (s.writeLen b w).status.errSticky = s.status.errSticky := by
  unfold State.writeLen
  split <;> rfl

theorem Reg.write_errSticky (s : State) (w : Word) (x : NUM) (r : Reg) :
    (r.write s w x).status.errSticky = s.status.errSticky := by
  cases r with
  | cmd => exact s.launch_errSticky w
  | len b => exact s.writeLen_errSticky b w
  | _ => rfl

theorem State.regWrite_errSticky (s : State) (n : ℕ) (w : Word) (x : NUM) :
    (s.regWrite n w x).status.errSticky = s.status.errSticky := by
  obtain h | ⟨r, -, -, h⟩ := s.regWrite_cases n w x
  · exact congrArg (·.status.errSticky) h
  · rw [h, Reg.write_errSticky]

/-- No host access touches the sticky record: a refused one leaves its trace in HOSTVIOL (20_memory.md R68). -/
theorem State.hostAccess_errSticky (s : State) (a : HostAction) :
    (s.hostAccess a).status.errSticky = s.status.errSticky := by
  cases a with
  | regRead n => obtain ⟨v, h | h⟩ := s.regRead_cases n <;> exact congrArg (·.status.errSticky) h
  | regWrite n w x => exact s.regWrite_errSticky n w x
  | regCopy n => exact s.regWrite_errSticky n _ _
  | bufRead b i => obtain ⟨v, h | h⟩ := s.bufRead_cases b i <;> exact congrArg (·.status.errSticky) h
  | bufWrite b i v => obtain h | ⟨c, -, h⟩ := s.bufWrite_cases b i v <;> exact congrArg (·.status.errSticky) h

theorem State.poll_errSticky (s : State) : s.poll.status.errSticky = s.status.errSticky := by
  obtain ⟨rest, h⟩ := s.poll_eq
  rw [h]
  exact s.hostAccess_errSticky _

/-! ERR_STICKY under the block's turn. -/

/-- The two commands that lose the sticky record (47_system.md R251, R252). -/
theorem exec_loses_sticky (hx : exec i s = .next t) (sticky : s.status.errSticky = true)
    (lost : t.status.errSticky = false) : i = .clrerr ∨ i = .sreset := by
  by_contra other
  obtain ⟨noClear, noReset⟩ := not_or.mp other
  obtain ⟨-, -, records⟩ := flagFrame i s t hx noReset
  obtain ⟨-, keeps⟩ := records noClear
  simp [keeps sticky] at lost

theorem blockStep_loses_sticky (hx : blockStep s = .next t) (sticky : s.status.errSticky = true)
    (lost : t.status.errSticky = false) :
    s.status.busy = true ∧ (decode s.latch = .ok .clrerr ∨ decode s.latch = .ok .sreset) := by
  obtain ⟨-, rfl⟩ | ⟨busy, i, latched, hx⟩ | ⟨-, rfl⟩ := blockStep_cases hx
  · simp [sticky] at lost
  · refine ⟨busy, ?_⟩
    obtain rfl | rfl := exec_loses_sticky hx sticky lost
    · exact .inl latched
    · exact .inr latched
  · cases lost

/-- Settles O24: event by event, only the reset input and the block's turn can lose the record. -/
theorem stickyKept : Obligations.StickyKept := by
  intro s t hx sticky lost
  match ha : s.agenda with
  | [] => exact .inr (blockStep_loses_sticky (step_of_nil ha ▸ hx) sticky lost)
  | .blockTurn :: rest =>
    exact .inr (blockStep_loses_sticky (s := { s with agenda := rest }) (step_of_blockTurn ha ▸ hx) sticky lost)
  | .host a :: rest =>
    cases (step_of_host ha).symm.trans hx
    simp [State.hostAccess_errSticky, sticky] at lost
  | .wait :: rest =>
    cases (step_of_wait ha).symm.trans hx
    simp [State.poll_errSticky, sticky] at lost
  | .reset :: rest => exact .inl ⟨rest, rfl⟩

end Sys2Proof.Machine
end

section
/-! CFG_DEBUG says what RUN records, not what it computes (60_exceptions.md R297, 45_pipeline.md R226). Every stage
reads other configuration registers. -/

namespace Sys2Proof.Machine

variable {R : Type} (A : Arith R)

/-- The configuration with CFG_DEBUG set to `d`. -/
def CfgBank.withDebug (cfg : CfgBank R) (d : Bool) : CfgBank R := { cfg with debug := d }

/-- The plan of the subframe loop with CFG_DEBUG set to `d`. -/
def Plan.withDebug (P : Plan R) (d : Bool) : Plan R := { P with cfg := P.cfg.withDebug d }

variable (cfg : CfgBank R) (d : Bool)

theorem Arith.checkOperands_withDebug (v : Variant) (N : ℕ) :
    A.checkOperands v (cfg.withDebug d) N = A.checkOperands v cfg N := rfl

theorem Arith.stage1_withDebug (v : Variant) (zones : List (R × R)) (cap : List (Cx R)) :
    A.stage1 v (cfg.withDebug d) zones cap = A.stage1 v cfg zones cap := rfl

theorem Arith.clockAbort_withDebug (v : Variant) (st : Stage1 R) :
    A.clockAbort v (cfg.withDebug d) st = A.clockAbort v cfg st := rfl

theorem Arith.stage2_withDebug (v : Variant) (zones : List (R × R)) (cap : List (Cx R)) (q : ℕ) (st : Stage1 R) :
    A.stage2 v (cfg.withDebug d) zones cap q st = A.stage2 v cfg zones cap q st := rfl

theorem Arith.planOf_withDebug (zones : List (R × R)) (N : ℕ) (st : Stage1 R) (sy : Synced R) :
    A.planOf (cfg.withDebug d) zones N st sy = (A.planOf cfg zones N st sy).withDebug d := rfl

theorem Arith.outputOf_withDebug (N : ℕ) (clock : Stage1 R × Bool) (sy : Synced R) (frames : List (Subframe R)) :
    A.outputOf (cfg.withDebug d) N clock sy frames = A.outputOf cfg N clock sy frames := rfl

theorem Arith.subframe_withDebug (P : Plan R) (j begin : ℕ) :
    A.subframe (P.withDebug d) j begin = A.subframe P j begin := rfl

/-- The subframe loop, turn by turn (R220). -/
theorem Arith.subframes_withDebug (P : Plan R) (n j begin : ℕ) :
    A.subframes (P.withDebug d) n j begin = A.subframes P n j begin := by
  induction n generalizing j begin with
  | zero => rfl
  | succ n ih => simp only [Arith.subframes_succ, Arith.subframe_withDebug, ih]

/-- RUN, stage by stage (R200). -/
theorem Arith.run_withDebug (zones : List (R × R)) (cap : List (Cx R)) :
    A.run (cfg.withDebug d) zones cap = A.run cfg zones cap := by
  rw [Arith.run_eq_bind, Arith.run_eq_bind]
  simp only [Arith.checkOperands_withDebug, Arith.stage1_withDebug, Arith.clockAbort_withDebug,
    Arith.stage2_withDebug, Arith.planOf_withDebug, Arith.outputOf_withDebug, Arith.subframes_withDebug]
  rfl

/-- Settles O48: no stage of RUN reads CFG_DEBUG. -/
theorem debugOnlyObserves : Obligations.DebugOnlyObserves :=
  fun _ A cfg zones cap d => A.run_withDebug cfg d zones cap

end Sys2Proof.Machine
end

section
/-! The operand checks of the primitive commands (60_exceptions.md R286, R287), read as conditions on real numbers
(00_scope.md R13). -/

namespace Sys2Proof.Machine

/-! The ranges of two real operands, failed. -/

theorem Arith.real_cutoffOk_false (fc fs : ℝ) : Arith.real.cutoffOk fc fs = false ↔ fc ≤ 0 ∨ fs / 2 ≤ fc := by
  rw [Bool.eq_false_iff, Ne, Arith.real_cutoffOk, not_and_or, not_lt, not_lt]

theorem Arith.real_rollOffOk_false (β : ℝ) : Arith.real.rollOffOk β = false ↔ β < 0 ∨ 1 < β := by
  rw [Bool.eq_false_iff, Ne, Arith.real_rollOffOk, not_and_or, not_le, not_le]

/-! The rules whose operand check fails, in the order of the opcode table. -/

variable {s : State} {bd bs bt : BufId}

/-- What stands behind an admitted destination (30_encoding.md R85). -/
theorem ite_of_destinationOk {sources : List BufId} (dest : destinationOk bd sources = true)
    (r : Except ErrCode State) : (if !destinationOk bd sources then .error .errAlias else r) = r :=
  if_neg (by simp [dest])

theorem downsampleRule_errArg (dest : destinationOk bd [bs] = true)
    (h : (s.buf bs).length = 0 ∨ s.arg.factor.toReal ≤ 0) : downsampleRule s bd bs = .error .errArg :=
  (ite_of_destinationOk dest _).trans (if_pos (by simpa using h))

theorem downsampleRule_errRange (dest : destinationOk bd [bs] = true) (source : (s.buf bs).length ≠ 0)
    (factor : 0 < s.arg.factor.toReal)
    (long : posOf s.arg.start.toNat s.arg.factor.toReal Config.bufMax < (s.buf bs).length) :
    downsampleRule s bd bs = .error .errRange := by
  have many : Config.bufMax < numArith.downsampleLen (s.buf bs).length s.arg.start.toNat s.arg.factor := by
    rw [numArith_downsampleLen]
    exact (Arith.lt_real_downsampleLen_iff factor).mpr long
  have nonempty : s.buf bs ≠ [] := fun h => source (by rw [h]; rfl)
  exact (ite_of_destinationOk dest _).trans ((if_neg (by simp [nonempty, factor])).trans (if_pos many))

theorem bestpointRule_errArg (h : (s.buf bs).length = 0 ∨ s.arg.factor.toReal ≤ 0) :
    bestpointRule s bs = .error .errArg :=
  if_pos (by simpa using h)

theorem bestpointRule_errRange (source : (s.buf bs).length ≠ 0) (factor : 0 < s.arg.factor.toReal)
    (wide : 2 ^ 32 - 1 < ⌈s.arg.factor.toReal⌉) : bestpointRule s bs = .error .errRange := by
  have nonempty : s.buf bs ≠ [] := fun h => source (by rw [h]; rfl)
  exact (if_neg (by simp [nonempty, factor])).trans (if_pos (by simpa using wide))

theorem zcgenRule_errArg (dest : destinationOk bd [] = true)
    (h : s.cfg.sequenceLength.toNat = 0 ∨ s.arg.repeats.toNat = 0) : zcgenRule s bd = .error .errArg :=
  (ite_of_destinationOk dest _).trans (if_pos (by simpa using h))

theorem zcgenRule_errRange (dest : destinationOk bd [] = true) (length : s.cfg.sequenceLength.toNat ≠ 0)
    (repeats : s.arg.repeats.toNat ≠ 0)
    (long : Config.bufMax < s.cfg.sequenceLength.toNat * s.arg.repeats.toNat) :
    zcgenRule s bd = .error .errRange :=
  (ite_of_destinationOk dest _).trans ((if_neg (by simp [length, repeats])).trans (if_pos long))

theorem syncRule_errArg
    (h : s.cfg.sequenceLength.toNat = 0 ∨ s.arg.repeats.toNat = 0 ∨ (s.buf bs).length < 50
      ∨ (s.buf bs).length < s.cfg.sequenceLength.toNat * s.arg.repeats.toNat) :
    syncRule s bs = .error .errArg :=
  if_pos (by simpa [or_assoc] using h)

theorem find1Rule_errArg (h : (s.buf bs).length < 3 ∨ s.arg.rate.toReal ≤ 0) : find1Rule s bs = .error .errArg :=
  if_pos (by simpa using h)

theorem find2Rule_errArg (h : (s.buf bs).length < 3 ∨ s.arg.rate.toReal ≤ 0 ∨ s.arg.guard.toReal < 0) :
    find2Rule s bs = .error .errArg :=
  if_pos (by simpa [or_assoc, Arith.le] using h)

theorem toneRule_errArg (dest : destinationOk bd [bs] = true)
    (h : s.cfg.firSize.toNat = 0 ∨ (s.buf bs).length < s.cfg.firSize.toNat ∨ s.arg.rate.toReal ≤ 0
      ∨ s.cfg.toneCutoff.toReal ≤ 0 ∨ s.arg.rate.toReal / 2 ≤ s.cfg.toneCutoff.toReal) :
    toneRule s bd bs = .error .errArg :=
  (ite_of_destinationOk dest _).trans (if_pos (by simpa [or_assoc, Arith.real_cutoffOk_false] using h))

theorem eqrateRule_errArg
    (h : s.cfg.firSize.toNat = 0 ∨ (s.buf bs).length < s.cfg.firSize.toNat ∨ (s.buf bs).length < 2
      ∨ s.arg.freq.toReal = 0 ∨ s.arg.rate.toReal ≤ 0
      ∨ s.cfg.toneCutoff.toReal ≤ 0 ∨ s.arg.rate.toReal / 2 ≤ s.cfg.toneCutoff.toReal) :
    eqrateRule s bs = .error .errArg :=
  if_pos (by simpa [or_assoc, Arith.real_cutoffOk_false] using h)

theorem phnoiseRule_errArg (dest : destinationOk bd [bs] = true)
    (h : (s.buf bs).length = 0 ∨ s.arg.rate.toReal ≤ 0) : phnoiseRule s bd bs = .error .errArg :=
  (ite_of_destinationOk dest _).trans (if_pos (by simpa using h))

theorem phcorrRule_errArg (dest : destinationOk bd [bs, bt] = true)
    (h : (s.buf bs).length = 0 ∨ s.buf bt = [] ∨ s.arg.factor.toReal ≤ 0) :
    phcorrRule s bd bs bt = .error .errArg :=
  (ite_of_destinationOk dest _).trans (if_pos (by simpa [reals, or_assoc] using h))

theorem fshiftRule_errArg (dest : destinationOk bd [bs] = true)
    (h : (s.buf bs).length = 0 ∨ s.arg.rate.toReal ≤ 0) : fshiftRule s bd bs = .error .errArg :=
  (ite_of_destinationOk dest _).trans (if_pos (by simpa using h))

theorem mfiltRule_errArg (dest : destinationOk bd [bs] = true)
    (h : s.arg.factor.toReal ≤ 0 ∨ s.arg.rate.toReal ≤ 0 ∨ s.cfg.symbolRate.toReal ≤ 0
      ∨ s.cfg.rollOff.toReal < 0 ∨ 1 < s.cfg.rollOff.toReal) : mfiltRule s bd bs = .error .errArg :=
  (ite_of_destinationOk dest _).trans (if_pos (by simpa [or_assoc, Arith.real_rollOffOk_false] using h))

/-- Settles O18: the command fails with what its rule raises. -/
theorem operandErrors : Obligations.OperandErrors := by
  intro s bd bs bt
  refine ⟨fun dest => ⟨?_, ?_, ?_, ?_, ?_, ?_⟩, ?_, fun dest => ⟨?_, ?_⟩, ?_, ?_, ?_, ?_, ?_, ?_⟩
  · exact fun h => exec_of_ruleOf_error nofun (downsampleRule_errArg dest h)
  · exact fun h => exec_of_ruleOf_error nofun (toneRule_errArg dest h)
  · exact fun h => exec_of_ruleOf_error nofun (phnoiseRule_errArg dest h)
  · exact fun h => exec_of_ruleOf_error nofun (fshiftRule_errArg dest h)
  · exact fun h => exec_of_ruleOf_error nofun (mfiltRule_errArg dest h)
  · exact fun source factor long => exec_of_ruleOf_error nofun (downsampleRule_errRange dest source factor long)
  · exact fun dest h => exec_of_ruleOf_error nofun (phcorrRule_errArg dest h)
  · exact fun h => exec_of_ruleOf_error nofun (zcgenRule_errArg dest h)
  · exact fun length repeats long => exec_of_ruleOf_error nofun (zcgenRule_errRange dest length repeats long)
  · exact fun h => exec_of_ruleOf_error nofun (bestpointRule_errArg h)
  · exact fun source factor wide => exec_of_ruleOf_error nofun (bestpointRule_errRange source factor wide)
  · exact fun h => exec_of_ruleOf_error nofun (syncRule_errArg h)
  · exact fun h => exec_of_ruleOf_error nofun (find1Rule_errArg h)
  · exact fun h => exec_of_ruleOf_error nofun (find2Rule_errArg h)
  · exact fun h => exec_of_ruleOf_error nofun (eqrateRule_errArg h)

end Sys2Proof.Machine
end

section
/-! No step stops (70_reset_and_hazards.md R320). -/

namespace Sys2Proof.Machine

/-- Every command answers a next state: SRESET the reset state, any other its completion. -/
theorem exec_completes (i : Instr) (s : State) : ∃ t, exec i s = .next t := by
  by_cases hi : i = .sreset
  · exact ⟨s.resetBlock, hi ▸ exec_sreset_eq s⟩
  · exact ⟨_, exec_eq_complete i s hi⟩

theorem blockStep_completes (s : State) : ∃ t, blockStep s = .next t := by
  cases busy : s.status.busy with
  | false => exact ⟨s, blockStep_idle busy⟩
  | true =>
    cases latched : decode s.latch with
    | error e => exact ⟨_, blockStep_illegal busy latched⟩
    | ok i => exact blockStep_busy busy latched ▸ exec_completes i s

/-- The reset input (R310). -/
theorem step_of_reset {s : State} {rest : List Event} (h : s.agenda = .reset :: rest) :
    step s = .next { s with agenda := rest }.resetBlock := by
  simp [step, h]

/-- Settles O5: event by event. -/
theorem everyStepCompletes : Obligations.EveryStepCompletes := by
  intro s
  match ha : s.agenda with
  | [] => exact step_of_nil ha ▸ blockStep_completes s
  | .blockTurn :: rest => exact step_of_blockTurn ha ▸ blockStep_completes _
  | .host a :: rest => exact ⟨_, step_of_host ha⟩
  | .wait :: rest => exact ⟨_, step_of_wait ha⟩
  | .reset :: rest => exact ⟨_, step_of_reset ha⟩

end Sys2Proof.Machine
end

section
/-! The reset state (70_reset_and_hazards.md R310, 10_state.md R44), and the system commands (47_system.md). -/

namespace Sys2Proof.Machine

/-- Settles O9: the reset state is what a reset of itself leaves. -/
theorem consistentReset : Obligations.ConsistentReset := State.reset.resetBlock_consistent

/-- The registers whose reset value is not the zero of their type (10_state.md R24, R25, R27). -/
def Reg.presets : List Reg :=
  [.id, .argFactor, .argRepeat, .argGuard, .cfgFirSize, .cfgToneCutoff, .cfgBeatSampleCount]

theorem State.reset_buf (b : BufId) : State.reset.buf b = [] := State.reset.resetBlock_buf b

/-- Every other register reads the zero of its type. -/
theorem Reg.read_reset {r : Reg} (h : r ∉ Reg.presets) : r.read State.reset = r.zero := by
  cases r with
  | id | argFactor | argRepeat | argGuard | cfgFirSize | cfgToneCutoff | cfgBeatSampleCount =>
    exact absurd (by decide) h
  | len b => simp [Reg.read, Reg.zero, State.lenWord, State.reset_buf]
  | _ => rfl

/-- The two zeros (log 8). -/
theorem Reg.zero_cases (r : Reg) : r.zero = .word 0#32 ∨ r.zero = .num (.rat 0) := by
  unfold Reg.zero
  split
  · exact .inr rfl
  · exact .inl rfl

/-- Settles O11: the reset input and SRESET do the same update, and its values are read off register by register. -/
theorem resetValues : Obligations.ResetValues := by
  refine ⟨fun s rest ha => step_of_reset ha, exec_sreset_eq, rfl, ?_, rfl, rfl, rfl, rfl, rfl, rfl, rfl,
    State.reset_buf⟩
  intro r hid hfactor hrepeat hguard hfir hcutoff hbeat
  rw [Reg.read_reset (by simp [Reg.presets, *])]
  exact r.zero_cases

/-- The launch of a command without launch-time clears (20_memory.md R66). -/
theorem State.launch_of_ne {s : State} {w : Word} (run : decode w ≠ .ok .run) (special : decode w ≠ .ok .special) :
    s.launch w = { s with latch := w, status := s.status.launched } := by
  obtain ⟨h, -⟩ | ⟨h, -⟩ | ⟨-, -, h⟩ := s.launch_cases w
  · exact absurd h run
  · exact absurd h special
  · exact h

/-- No register shows the environment's two fields (log 3). -/
theorem Reg.read_resetBlock (s : State) (r : Reg) : r.read s.resetBlock = r.read State.reset := by
  cases r <;> rfl

/-- Settles O12: the completions of NOP and CLRERR after a launch without clears, and the reset of SRESET. -/
theorem systemResults : Obligations.SystemResults := by
  refine ⟨by decide, by decide, by decide, fun s => ⟨?_, ?_⟩, fun s => ?_⟩
  · rw [State.launch_of_ne (by decide) (by decide)]
    exact exec_eq_complete .nop _ nofun
  · rw [State.launch_of_ne (by decide) (by decide)]
    exact exec_eq_complete .clrerr _ nofun
  · exact ⟨s.resetBlock, exec_sreset_eq s, rfl, rfl, rfl, rfl, s.resetBlock_buf, Reg.read_resetBlock s⟩

end Sys2Proof.Machine
end

section
/-! Every command right after reset (70_reset_and_hazards.md R312). -/

namespace Sys2Proof.Machine

/-! What a launch leaves unchanged, and what it leaves of the reset state. -/

@[simp] theorem State.launch_arg (s : State) (w : Word) : (s.launch w).arg = s.arg := by
  obtain ⟨-, h⟩ | ⟨-, h⟩ | ⟨-, -, h⟩ := s.launch_cases w <;> exact congrArg (·.arg) h

@[simp] theorem State.launch_cfg (s : State) (w : Word) : (s.launch w).cfg = s.cfg := by
  obtain ⟨-, h⟩ | ⟨-, h⟩ | ⟨-, -, h⟩ := s.launch_cases w <;> exact congrArg (·.cfg) h

@[simp] theorem State.launch_snap (s : State) (w : Word) : (s.launch w).snap = s.snap := by
  obtain ⟨-, h⟩ | ⟨-, h⟩ | ⟨-, -, h⟩ := s.launch_cases w <;> exact congrArg (·.snap) h

/-- A launch empties buffers, and fills none. -/
theorem State.launch_buf_nil {s : State} {b : BufId} (empty : s.buf b = []) (w : Word) : (s.launch w).buf b = [] := by
  obtain ⟨-, h⟩ | ⟨-, h⟩ | ⟨-, -, h⟩ := s.launch_cases w <;> rw [h]
  · exact (s.clearForRun_buf b).trans (by simp [empty])
  · exact (s.clearForSpecial_buf b).trans (by simp [empty])
  · exact empty

variable {s : State}

/-- The reset values that the checks of R286 and R204 meet: no samples, no sequence, taps, rate 0, no pilots. -/
structure State.AsReset (s : State) : Prop where
  arg : s.arg = ArgBank.reset
  cfg : s.cfg = CfgBank.reset
  snap : s.snap = SnapBank.reset
  empty : ∀ b : BufId, s.buf b = []

theorem State.asReset_launch (w : Word) : (State.reset.launch w).AsReset where
  arg := State.reset.launch_arg w
  cfg := State.reset.launch_cfg w
  snap := State.reset.launch_snap w
  empty b := State.launch_buf_nil (State.reset_buf b) w

namespace State.AsReset

theorem length (h : s.AsReset) (b : BufId) : (s.buf b).length = 0 := by rw [h.empty b, List.length_nil]

/-- RUN stops at its second check: the general variant needs two pilots (45_pipeline.md R204). -/
theorem run_fails (h : s.AsReset) : exec .run s = .next (s.failedWith .errPilots) := by
  refine exec_run_of_entry_error (Arith.real_entry_pilots ?_ fun pilots => ?_)
  · rw [h.cfg]
    rfl
  · rw [h.cfg] at pilots
    have two : (0#32 : Word) = 2#32 := pilots
    exact absurd two (by decide)

/-- SPECIAL stops at the snapshot, whose rates are 0 (46_special_dsp.md R240, R241). -/
theorem special_fails (h : s.AsReset) : exec .special s = .next (s.failedWith .errArg) := by
  refine exec_special_of_real_error (Arith.real_special_values ?_ (fun values => ?_) _ _)
  · rw [h.snap]
    rfl
  · rw [h.snap] at values
    have positive : 0 < (NUM.rat 0).toReal := values.1
    simp at positive

/-- Every other command whose destination is admitted, and that is no system command, stops at its operands (R312). -/
theorem exec_fails (h : s.AsReset) {i : Instr} (dest : i.wellFormed = true)
    (operands : i ∉ [.nop, .clrerr, .sreset, .run]) : exec i s = .next (s.failedWith .errArg) := by
  have rate : s.arg.rate.toReal ≤ 0 := by simp [h.arg, ArgBank.reset]
  have noSequence : s.cfg.sequenceLength.toNat = 0 := by rw [h.cfg]; rfl
  have taps : s.cfg.firSize.toNat = 500 := by rw [h.cfg]; rfl
  have short (b : BufId) {n : ℕ} (hn : 0 < n) : (s.buf b).length < n := h.length b ▸ hn
  cases i with
  | nop | clrerr | sreset | run => exact absurd (by simp) operands
  | downsample bd bs => exact exec_of_ruleOf_error nofun (downsampleRule_errArg dest (.inl (h.length bs)))
  | bestpoint bs => exact exec_of_ruleOf_error nofun (bestpointRule_errArg (.inl (h.length bs)))
  | zcgen bd => exact exec_of_ruleOf_error nofun (zcgenRule_errArg dest (.inl noSequence))
  | sync bs => exact exec_of_ruleOf_error nofun (syncRule_errArg (.inl noSequence))
  | find1 bs => exact exec_of_ruleOf_error nofun (find1Rule_errArg (.inl (short bs (by decide))))
  | find2 bs => exact exec_of_ruleOf_error nofun (find2Rule_errArg (.inl (short bs (by decide))))
  | tone bd bs => exact exec_of_ruleOf_error nofun (toneRule_errArg dest (.inr (.inl (short bs (by omega)))))
  | eqrate bs => exact exec_of_ruleOf_error nofun (eqrateRule_errArg (.inr (.inl (short bs (by omega)))))
  | phnoise bd bs => exact exec_of_ruleOf_error nofun (phnoiseRule_errArg dest (.inl (h.length bs)))
  | phcorr bd bs bt => exact exec_of_ruleOf_error nofun (phcorrRule_errArg dest (.inl (h.length bs)))
  | fshift bd bs => exact exec_of_ruleOf_error nofun (fshiftRule_errArg dest (.inl (h.length bs)))
  | mfilt bd bs => exact exec_of_ruleOf_error nofun (mfiltRule_errArg dest (.inr (.inl rate)))
  | special => exact h.special_fails

end State.AsReset

/-- Settles O13: the system commands complete, RUN lacks pilots, and every other command fails its operand check. -/
theorem commandsAfterReset : Obligations.CommandsAfterReset := by
  intro i dest
  have asReset : (State.reset.launch (encode i)).AsReset := State.asReset_launch _
  cases i with
  | nop => exact ⟨_, exec_eq_complete .nop _ nofun, rfl, rfl, rfl⟩
  | clrerr => exact ⟨_, exec_eq_complete .clrerr _ nofun, rfl, rfl, rfl⟩
  | sreset => exact ⟨_, exec_sreset_eq _, rfl⟩
  | run => exact ⟨_, asReset.run_fails, rfl, rfl⟩
  | _ => exact ⟨_, asReset.exec_fails dest (by simp), rfl, rfl⟩

end Sys2Proof.Machine
end

section
/-! The resampler by its formulas (40_resampler.md R101 to R106): `downsample` on sequences of any kind, and the commands
DOWNSAMPLE and BESTPOINT. -/

namespace Sys2Proof.Machine

/-! The samples taken (R102, R103). -/

/-- An index has a sample exactly when its position has one, and it is the sample at that position (R102). -/
theorem Arith.getElem?_real_downsample {α : Type} {f : ℝ} (hf : 0 < f) (zero : α) (d : List α) (start k : ℕ) :
    (Arith.real.downsample zero d start f)[k]? = d[(posOf start f k).toNat]? := by
  simp only [Arith.downsample, List.getElem?_map, Arith.real_pos]
  have nonneg : 0 ≤ posOf start f k := posOf_nonneg hf
  rcases lt_or_ge k (Arith.real.downsampleLen d.length start f) with taken | behind
  · have inside : (posOf start f k).toNat < d.length :=
      (Int.toNat_lt nonneg).mpr ((Arith.lt_real_downsampleLen_iff hf).mp taken)
    rw [List.getElem?_range taken, Option.map_some, List.getD_eq_getElem _ _ inside, List.getElem?_eq_getElem inside]
  · have outside : d.length ≤ (posOf start f k).toNat := by
      rw [← not_lt, Arith.lt_real_downsampleLen_iff hf, not_lt] at behind
      omega
    rw [List.getElem?_eq_none (by simpa using behind), List.getElem?_eq_none outside, Option.map_none]

/-- With an integral factor the positions are those of exact stride slicing (R103): nothing is rounded. -/
theorem posOf_natCast (start f k : ℕ) : posOf start f k = (start + k * f : ℕ) := by
  rw [posOf, Int.ceil_eq_iff]
  push_cast
  constructor <;> linarith

/-- The samples fit in `n` places when position `n` lies behind the sequence (R101, R102). -/
theorem real_downsampleLen_le_iff {N start n : ℕ} {f : ℝ} (hf : 0 < f) :
    Arith.real.downsampleLen N start f ≤ n ↔ (N : ℤ) ≤ posOf start f n := by
  rw [← not_lt, Arith.lt_real_downsampleLen_iff hf, not_lt]

/-- Settles O26: `downsampleLen` counts the positions within the sequence, and the samples are those at them. -/
theorem downsamplePositions : Obligations.DownsamplePositions := by
  intro α zero d start f hf
  refine ⟨Arith.real.downsampleLen d.length start f, Arith.downsample_length _ zero d start f, fun k => ?_,
    fun k _ => Arith.getElem?_real_downsample hf zero d start k⟩
  exact (Arith.lt_real_downsampleLen_iff hf).trans Int.le_sub_one_iff.symm

/-! The commands. -/

variable {s : State} {bd bs : BufId}

/-- DOWNSAMPLE within its checks (R101). -/
theorem downsampleRule_of_checks (dest : destinationOk bd [bs] = true) (source : s.buf bs ≠ [])
    (hf : 0 < s.arg.factor.toReal)
    (fits : ((s.buf bs).length : ℤ) ≤ posOf s.arg.start.toNat s.arg.factor.toReal Config.bufMax) :
    downsampleRule s bd bs
      = .ok (s.setBuf bd (numArith.downsample numArith.czero (s.buf bs) s.arg.start.toNat s.arg.factor)) := by
  have few := (real_downsampleLen_le_iff hf).mpr fits
  rw [← numArith_downsampleLen] at few
  exact (ite_of_destinationOk dest _).trans ((if_neg (by simp [source, hf])).trans (if_neg few.not_gt))

/-- Settles O25: DOWNSAMPLE on the machine's terms takes the samples of `downsample` over the exact reals. -/
theorem downsampleResult : Obligations.DownsampleResult := by
  intro bd bs s dest source hf fits
  have sample (k : ℕ) : (numArith.downsample numArith.czero (s.buf bs) s.arg.start.toNat s.arg.factor)[k]?
      = (s.buf bs)[(posOf s.arg.start.toNat s.arg.factor.toReal k).toNat]? := by
    rw [numArith_downsample, Arith.getElem?_real_downsample hf]
  refine ⟨_, exec_of_ruleOf_ok nofun (downsampleRule_of_checks dest source hf fits), sample, fun f integral k => ?_⟩
  rw [sample, integral, posOf_natCast, Int.toNat_natCast]

/-- BESTPOINT within its checks (R104). -/
theorem bestpointRule_of_checks (source : s.buf bs ≠ []) (hf : 0 < s.arg.factor.toReal)
    (small : ⌈s.arg.factor.toReal⌉ ≤ 2 ^ 32 - 1) :
    bestpointRule s bs = .ok (s.setI0 (wordOf (numArith.bestpoint (s.buf bs) s.arg.factor))) := by
  have inRange : ¬ 2 ^ 32 - 1 < numArith.ceil s.arg.factor := by simpa using small
  rw [bestpointRule, if_neg (by simp [source, hf]), if_neg inRange]

/-- Settles O27: `bestpoint` over the exact reals, and BESTPOINT as the same function on the machine's terms. -/
theorem bestpointResult : Obligations.BestpointResult := by
  intro bs s source hf small
  have best := Arith.real_bestpoint (d := valuesOf (s.buf bs)) hf (by simpa [valuesOf] using source)
  rw [← numArith_bestpoint, realSampleAt_valuesOf, valuesOf_length] at best
  exact ⟨_, exec_of_ruleOf_ok nofun (bestpointRule_of_checks source hf small), best⟩

end Sys2Proof.Machine
end

section
/-! SPECIAL by its formulas (46_special_dsp.md R240, R241). -/

namespace Sys2Proof.Machine

variable {b : SnapBank ℝ}

/-- The ratio of the snapshot's rates, by which SPECIAL resamples (R240). -/
theorem SnapshotOk.sps_pos (ok : SnapshotOk b) : 0 < b.equiRate / b.symbolRate := by
  obtain ⟨symbolRate, equiRate, -⟩ := ok
  exact div_pos equiRate symbolRate

/-- A calibration has one symbol for every sampling position in its capture (R102, R240). -/
theorem SnapshotOk.calibrateLen_eq_card (ok : SnapshotOk b) (n : ℕ) :
    Arith.real.calibrateLen b n = (positionsOf n 0 (b.equiRate / b.symbolRate)).card :=
  (card_positionsOf ok.sps_pos n 0).symm

/-- A symbol of a calibration is the de-shifted and filtered capture at its sampling position (R102, R185, R191,
R240). -/
theorem SnapshotOk.realSampleAt_calibrate (ok : SnapshotOk b) (x : List (Cx ℝ)) {k : ℕ}
    (taken : k < Arith.real.calibrateLen b x.length) :
    realSampleAt (Arith.real.calibrate b x) k
      = filteredBy (b.equiRate / b.symbolRate) b.rollOff b.symbolRate b.equiRate
        (shiftedBy (realSampleAt x) b.freqShift b.equiRate) (posOf 0 (b.equiRate / b.symbolRate) k) := by
  change k < Arith.real.downsampleLen x.length 0 (b.equiRate / b.symbolRate) at taken
  have position : k ∈ positionsOf x.length 0 (b.equiRate / b.symbolRate) := by
    rw [positionsOf_eq_range ok.sps_pos]
    exact Finset.mem_range.mpr taken
  obtain ⟨n, inside, at_n⟩ := posOf_of_mem ok.sps_pos position
  rw [Arith.calibrate, Arith.real_div, realSampleAt_downsample ok.sps_pos (by simpa using taken), at_n,
    Arith.real_mfilt _ _ _ _ _ (by simpa using inside), realSampleAt_fshift]

/-- SPECIAL with all its checks passed (R240). -/
theorem Arith.real_special_of_checks (schema : b.schema = 0#32) (ok : SnapshotOk b) {x y : List (Cx ℝ)} (hx : x ≠ [])
    (hy : y ≠ []) (fitsX : (x.length : ℤ) ≤ posOf 0 (b.equiRate / b.symbolRate) Config.bufMax)
    (fitsY : (y.length : ℤ) ≤ posOf 0 (b.equiRate / b.symbolRate) Config.bufMax) :
    Arith.real.special b x y = .ok (Arith.real.calibrate b x, Arith.real.calibrate b y) := by
  have few : ¬ (Config.bufMax < Arith.real.calibrateLen b x.length
      ∨ Config.bufMax < Arith.real.calibrateLen b y.length) := by
    rw [ok.lt_calibrateLen_iff, ok.lt_calibrateLen_iff, not_or, not_lt, not_lt]
    exact ⟨fitsX, fitsY⟩
  rw [Arith.real_special_captures schema ok, if_neg (by simp [hx, hy]), if_neg few]

/-- A sequence of terms that stands for a calibration has its length and its elements (R13, R240). -/
theorem SnapshotOk.calibrated (ok : SnapshotOk b) {x y : List (Cx NUM)}
    (h : valuesOf y = Arith.real.calibrate b (valuesOf x)) :
    y.length = (positionsOf x.length 0 (b.equiRate / b.symbolRate)).card
    ∧ ∀ k : ℕ, k < y.length → sampleAt y k
      = filteredBy (b.equiRate / b.symbolRate) b.rollOff b.symbolRate b.equiRate
        (shiftedBy (sampleAt x) b.freqShift b.equiRate) (posOf 0 (b.equiRate / b.symbolRate) k) := by
  have length : y.length = Arith.real.calibrateLen b x.length := by
    rw [← valuesOf_length y, h, Arith.calibrate_length, valuesOf_length]
  refine ⟨length.trans (ok.calibrateLen_eq_card _), fun k hk => ?_⟩
  rw [← realSampleAt_valuesOf, ← realSampleAt_valuesOf, h]
  exact ok.realSampleAt_calibrate _ (by rwa [valuesOf_length, ← length])

/-- A SPECIAL that succeeds on the two captures writes its outputs and sets SPECIAL_VALID (R240); SNAP_VALID is not
looked at (R241). -/
theorem specialRule_of_special {s : State} {y : List (Cx NUM) × List (Cx NUM)}
    (h : numArith.special s.snap (s.buf BufId.calE) (s.buf BufId.calES) = .ok y) :
    specialRule s
      = .ok (({ s with status := s.status.specialDone }.setBuf BufId.spoE y.1).setBuf BufId.spoES y.2) := by
  rw [specialRule, h]

/-- Settles O49: `special` over the exact reals succeeds, and SPECIAL is the same function on the machine's terms. -/
theorem specialResult : Obligations.SpecialResult := by
  intro s b sps calibrated schema symbolRate equiRate rollOff rollOff' hE hES fitsE fitsES
  have ok : SnapshotOk b := ⟨symbolRate, equiRate, rollOff, rollOff'⟩
  have succeeds := Arith.real_special_of_checks (b := b) schema ok (x := valuesOf (s.buf BufId.calE))
    (y := valuesOf (s.buf BufId.calES)) (by simpa [valuesOf] using hE) (by simpa [valuesOf] using hES)
    (by rwa [valuesOf_length]) (by rwa [valuesOf_length])
  obtain ⟨⟨yE, yES⟩, found, values⟩ := Except.exists_ok_of_map ((numArith_special _ _ _).trans succeeds)
  obtain ⟨valuesE, valuesES⟩ := Prod.mk.inj values
  exact ⟨yE, yES, exec_of_ruleOf_ok nofun (specialRule_of_special found), ok.calibrated valuesE,
    ok.calibrated valuesES⟩

end Sys2Proof.Machine
end
